-- ==== Sys2Proof/Word.lean ====
section
/-!
DEFINITION. The datum of DLCP: the byte (spec/00_scope.md R8, R13).
Every stored element and every transferred datum is one byte; the few wider values keep their own widths where they stand.
-/
namespace Sys2Proof

/-- A byte `b[7:0]`, bit 0 least significant (00_scope.md R8, R13). -/
abbrev Byte := BitVec 8

end Sys2Proof
end

