-- ==== Sys2Proof/Config.lean ====
section
/-!
DEFINITION. The construction parameters the spec leaves open (00_scope.md R6, R7, R10; 10_state.md R22).
They are plain data held in the state and written by no cycle, so every statement ranges over all their values.
The spec leaves no result of an instruction undefined, so there is no free value here.
-/
namespace Sys2Proof

/-- The parameters fixed when the blocks are built (70_reset_and_hazards.md R235). -/
structure Params where
  /-- `C`, the capacity of the stand-alone RBF in live elements, at least 2 (R6). -/
  c : Nat
  /-- `N`, the capacity of the controller's pending-command queue, which is that RBF's own `C`, at least 2 (R7). -/
  n : Nat
  /-- `K` (CLK_PER_MS), clock cycles per millisecond, at least 1 (R10). -/
  k : Nat
  /-- `LIMIT`, the limit of the stand-alone IDX, at least 1 (R22). -/
  limit : Nat
deriving DecidableEq, Repr

/-- The reference configuration: `C = N = 64` (R6, R7), `LIMIT = 65` (the limit inside the reference RBF).
DESIGN CHOICE, unsafe, log entry 2: the spec gives no reference value of `K`; this is the least it permits. -/
def Params.reference : Params := { c := 64, n := 64, k := 1, limit := 65 }

end Sys2Proof
end

