-- ==== Sys2Proof/Syntax.lean ====
section
/-!
DEFINITION. What the blocks' input ports carry, and the thirteen operations (30_encoding.md), with the spec's test syntax.
-/
namespace Sys2Proof

/-- The four formats, and no other (30_encoding.md R70). -/
inductive Format where
  | dlcpCyc | rbfCyc | idxCyc | cmd
deriving DecidableEq, Repr

/-- The word on one block's input ports in one cycle, with the block it belongs to (R71 to R74). -/
inductive PortWord where
  /-- `{rst, rx_valid, rx_byte[7:0]}` on the controller (R72). -/
  | dlcp (w : BitVec 10)
  /-- `{rst, push, pop, push_data[7:0]}` on a stand-alone RBF (R73). -/
  | rbf (w : BitVec 11)
  /-- `{rst, adv}` on a stand-alone IDX (R74). -/
  | idx (w : BitVec 2)
  /-- The byte `b[7:0]` on a stand-alone CODEC (R71). -/
  | cmd (b : BitVec 8)
deriving DecidableEq, Repr

/-- The format of a port word. -/
def PortWord.format : PortWord → Format
  | .dlcp _ => .dlcpCyc
  | .rbf _ => .rbfCyc
  | .idx _ => .idxCyc
  | .cmd _ => .cmd

/-- The operations, one constructor per row of spec/opcode_table.json. Each operand has exactly the width of its field,
so there is no ill-formed instruction; bits an operation ignores (R81) are not part of it (log entry 15). -/
inductive Instr where
  /-- `DLCP.NOP`: no byte this cycle (R152). -/
  | dlcpNop
  /-- `DLCP.SEND v`: the byte `v` is received (R150). -/
  | dlcpSend (v : Byte)
  /-- `DLCP.RESET` (R230). -/
  | dlcpReset
  /-- `RBF.NOP` (R118). -/
  | rbfNop
  /-- `RBF.PUSH v` (R113). -/
  | rbfPush (v : Byte)
  /-- `RBF.POP` (R115). -/
  | rbfPop
  /-- `RBF.PUSHPOP v`: a push and a pop in one cycle (R119). -/
  | rbfPushpop (v : Byte)
  /-- `RBF.RESET` (R120). -/
  | rbfReset
  /-- `IDX.HOLD` (R102). -/
  | idxHold
  /-- `IDX.ADV` (R101). -/
  | idxAdv
  /-- `IDX.RESET` (R104). -/
  | idxReset
  /-- `CMD.UP`, the byte `{0, m}` (R133). -/
  | cmdUp (m : BitVec 7)
  /-- `CMD.DOWN`, the byte `{1, m}` (R134). -/
  | cmdDown (m : BitVec 7)
deriving DecidableEq, Repr

/-- One line of a test program (30_encoding.md R83, R84), its numbers as written, before any range check. -/
inductive AsmLine where
  | dlcpNop (n : Nat)
  | dlcpSend (v : Nat)
  | dlcpReset
  /-- Pseudo-instruction `UP t`, `t` in milliseconds (R84). -/
  | up (t : Nat)
  /-- Pseudo-instruction `DOWN t`, `t` in milliseconds (R84). -/
  | down (t : Nat)
  | rbfNop (n : Nat)
  | rbfPush (v : Nat)
  | rbfPop
  | rbfPushpop (v : Nat)
  | rbfReset
  | idxHold
  | idxAdv
  | idxReset
deriving DecidableEq, Repr

end Sys2Proof
end

