-- ==== Sys2Proof/Machine/State.lean ====
section
/-!
DEFINITION. The state of the blocks as plain data (spec/10_state.md), the reasons a step can stop, and the reset state.
One instance of each block is held: the controller (with its queue RBF), a stand-alone RBF, a stand-alone IDX, a CODEC (log entry 1).
-/
namespace Sys2Proof.Machine

/-- The storage of an RBF: the slots that hold a byte, slot numbers strictly rising. A slot that is not listed holds `⊥`
(10_state.md R27; log entry 7). -/
abbrev Memory := List Host.Cell

/-- The controller state register `st` (10_state.md R28). -/
inductive Phase where
  | idle | act
deriving DecidableEq, Repr

/-- A direction, the value of `cur_dir` and of the CODEC port `dir` (10_state.md R29, R38). -/
inductive Direction where
  | up | down
deriving DecidableEq, Repr

/-- The consumer's four actions; in each cycle without reset it performs exactly one (43_dispatch.md R153 to R156). -/
inductive ConsumerAction where
  | start | finish | count | wait
deriving DecidableEq, Repr

/-- The outcome codes of 60_exceptions.md R200. -/
inductive OutcomeCode where
  | ok | bufferFull | queueFull | bufferEmpty
deriving DecidableEq, Repr

/-- An RBF: backing storage, read index, write index (10_state.md R23). The indices are bounded counters, held as numbers
(log entry 9). -/
structure Rbf where
  mem : Memory
  rd : Nat
  wr : Nat
deriving DecidableEq, Repr

/-- The controller's registers (10_state.md R28, R29) with its pending-command queue (R30). -/
structure Dlcp where
  queue : Rbf
  st : Phase
  curRaw : Byte
  curDir : Direction
  /-- Remaining whole milliseconds, `DW = 11` bits. -/
  msLeft : BitVec 11
  /-- The millisecond prescaler, in 0..K-1. -/
  sub : Nat
deriving DecidableEq, Repr

/-- The controller's output ports in one cycle (10_state.md R37). -/
structure DlcpOut where
  rxOk : Bool
  rxFull : Bool
  up : Bool
  down : Bool
  status : Bool
  qEmpty : Bool
  qFull : Bool
  actRaw : Byte
  actLeft : BitVec 11
deriving DecidableEq, Repr

/-- The output ports of a stand-alone RBF in one cycle (10_state.md R36). -/
structure RbfOut where
  pushOk : Bool
  pushFull : Bool
  popValid : Bool
  popData : Byte
  full : Bool
  empty : Bool
  count : Nat
deriving DecidableEq, Repr

/-- The output ports of a stand-alone IDX in one cycle (10_state.md R35). -/
structure IdxOut where
  cur : Nat
  nxt : Nat
deriving DecidableEq, Repr

/-- The ports of the stand-alone CODEC: the byte last applied and the outputs it gave (10_state.md R38). -/
structure CodecPorts where
  b : Byte
  dir : Direction
  ms : BitVec 16
deriving DecidableEq, Repr

/-- The whole machine. The four output records hold the ports as sampled in the last cycle of their block; nothing reads them
(log entry 6). `inputs` is what the host is going to drive, the next word first (log entry 3). -/
structure State where
  params : Params
  dlcp : Dlcp
  rbf : Rbf
  idx : Nat
  dlcpOut : DlcpOut
  rbfOut : RbfOut
  idxOut : IdxOut
  codec : CodecPorts
  inputs : List PortWord
deriving DecidableEq, Repr

/-- States the rules never reach (00_scope.md R17, 60_exceptions.md R215). Every one is safe: the machine stops where no
hardware run can be. -/
inductive Fault where
  /-- Raised by every cycle of a stand-alone IDX with `value >= limit`. Safe. -/
  | idxOutOfRange
  /-- Raised by every cycle of an RBF, or of the controller, whose read or write index is `>= L`. Safe. -/
  | rbfIndexOutOfRange
  /-- Raised by a POP, PUSHPOP or START that would read a slot holding `⊥`. Safe. -/
  | slotBottom
  /-- Raised by every cycle of a controller in ACT with `ms_left > 1280`. Safe. -/
  | msLeftOutOfRange
  /-- Raised by every cycle of a controller with `sub >= K`. Safe. -/
  | subOutOfRange
deriving DecidableEq, Repr

/-- Configurations and inputs the model gives no meaning (00_scope.md R17, 60_exceptions.md R215). Every one is safe. -/
inductive Refusal where
  /-- Raised by an arm of `exec` whose instruction has no meaning yet. Safe. No arm raises it. -/
  | notModelled (mnemonic : String)
  /-- Raised by every cycle of an RBF with `C < 2`, or of the controller with `N < 2` (R6, R7). Safe. -/
  | capacityBelowTwo
  /-- Raised by every cycle of a controller with `K < 1` (R10). Safe. -/
  | clkPerMsZero
  /-- Raised by every cycle of an IDX with `limit = 0` (R106). Safe. -/
  | limitZero
  /-- Raised by `launch` for a run that is not one format's words with a reset first (R234, R251, R252). Safe. -/
  | runWithoutReset
  /-- Raised by the interleaving model for an atomic action whose condition does not hold (20_memory.md R57). Safe. -/
  | actionNotEnabled
deriving DecidableEq, Repr

/-- The three outcomes, with this machine's reasons. -/
abbrev Res (α : Type) := Host.Outcome α Fault Refusal

/-- The reset state of every block built with the parameters `p` (10_state.md R40, 70_reset_and_hazards.md R230, R251), no slot
ever written (R234), no word waiting. The output records hold what R40 says the outputs are after reset. DESIGN CHOICE, unsafe,
log entry 6: the ports R40 does not name (the outcome signals, `pop_data`, `cur`, `nxt`, the CODEC's). -/
def State.resetWith (p : Params) : State where
  params := p
  dlcp :=
    { queue := { mem := [], rd := 0, wr := 0 }
      st := .idle, curRaw := 0x00#8, curDir := .up, msLeft := 0#11, sub := 0 }
  rbf := { mem := [], rd := 0, wr := 0 }
  idx := 0
  dlcpOut :=
    { rxOk := false, rxFull := false, up := false, down := false, status := true, qEmpty := true, qFull := false
      actRaw := 0x00#8, actLeft := 0#11 }
  rbfOut :=
    { pushOk := false, pushFull := false, popValid := false, popData := 0x00#8, full := false, empty := true, count := 0 }
  idxOut := { cur := 0, nxt := 1 % p.limit }
  codec := { b := 0x00#8, dir := .up, ms := 0#16 }
  inputs := []

/-- The machine right after reset, built with the reference parameters. -/
def State.reset : State := State.resetWith Params.reference

end Sys2Proof.Machine
end

