-- ==== Sys2Proof/WellFormed.lean ====
section
/-!
DEFINITION. The checks the spec puts on what a user writes: the parameters, a raw number offered as a port word, a line of a
test program, and a run. An `Instr` needs no check: its operands have exactly their fields' widths.
-/
namespace Sys2Proof

/-- The configurations a model does not refuse (60_exceptions.md R215; 00_scope.md R6, R7, R10; 40_wrap_index.md R106). -/
def Params.wf (p : Params) : Bool :=
  decide (2 ≤ p.c) && decide (2 ≤ p.n) && decide (1 ≤ p.k) && decide (1 ≤ p.limit)

/-- The width of a format in bits (30_encoding.md R71 to R74). -/
def Format.width : Format → Nat
  | .dlcpCyc => 10
  | .rbfCyc => 11
  | .idxCyc => 2
  | .cmd => 8

/-- A number is a word of a format when it fits the format's width (30_encoding.md R70). -/
def Format.fits (f : Format) (w : Nat) : Bool := decide (w < 2 ^ f.width)

/-- The lines R83 and R84 give a meaning: `NOP n` with `n >= 1`, a byte operand in 0..255, `UP t` with `t` a multiple of 10
in 0..1270, `DOWN t` with `t` a multiple of 10 in 10..1280. -/
def AsmLine.wf : AsmLine → Bool
  | .dlcpNop n => decide (1 ≤ n)
  | .dlcpSend v => decide (v ≤ 255)
  | .dlcpReset => true
  | .up t => decide (t % 10 = 0) && decide (t ≤ 1270)
  | .down t => decide (t % 10 = 0) && decide (10 ≤ t) && decide (t ≤ 1280)
  | .rbfNop n => decide (1 ≤ n)
  | .rbfPush v => decide (v ≤ 255)
  | .rbfPop => true
  | .rbfPushpop v => decide (v ≤ 255)
  | .rbfReset => true
  | .idxHold => true
  | .idxAdv => true
  | .idxReset => true

/-- The word is a reset cycle of its block: its `rst` bit is 1 (30_encoding.md R77 to R79). The CODEC has no reset. -/
def PortWord.isReset : PortWord → Bool
  | .dlcp w => w.getLsbD 9
  | .rbf w => w.getLsbD 10
  | .idx w => w.getLsbD 1
  | .cmd _ => false

/-- A run is a finite list of cycle words of one format whose first word is a reset (70_reset_and_hazards.md R252). -/
def runWf : List PortWord → Bool
  | [] => false
  | w :: ws => w.isReset && ws.all fun v => decide (v.format = w.format)

end Sys2Proof
end

