-- ==== Sys2Proof/Machine/Operands.lean ====
section
/-!
DEFINITION. The arithmetic of the spec: number readings of a byte (00_scope.md R14), index arithmetic modulo the limit
(40_wrap_index.md), index widths (R9, R29), and the CODEC (30_encoding.md R75, R76; 42_codec.md).
-/
namespace Sys2Proof.Machine

/-- `u8(b)`: the byte as an unsigned integer in 0..255 (R14). -/
def u8 (b : Byte) : Nat := b.toNat

/-- `s8(b) = u8(b) - 256 * b[7]`: the byte as a two's-complement integer in -128..127 (R14). -/
def s8 (b : Byte) : Int := (u8 b : Int) - 256 * (if b.getLsbD 7 then 1 else 0)

/-- `L = C + 1`, the number of backing slots and the limit of both indices of an RBF (00_scope.md R6). -/
def slots (cap : Nat) : Nat := cap + 1

/-- `ceil(log2 m)`: the least `w` with `m <= 2 ^ w`. -/
def ceilLog2 (m : Nat) : Nat := ((List.range m).find? fun w => decide (m ≤ 2 ^ w)).getD 0

/-- The least width, at least 1, of a field that holds every value in `[0, m)`: `IW` of an index with limit `m`
(00_scope.md R9, 10_state.md R22) and `PW` of the prescaler with `m = K` (10_state.md R29). -/
def fieldWidth (m : Nat) : Nat := max 1 (ceilLog2 m)

/-- `(value + 1) mod limit`: what ADV writes and what `peek_next` shows (40_wrap_index.md R101, R103). -/
def wrapNext (limit value : Nat) : Nat := (value + 1) % limit

/-- The direction of a command byte: Down exactly when `b[7] = 1` (R75, R131). -/
def directionOf (b : Byte) : Direction := if b.getLsbD 7 then .down else .up

/-- The port encoding of a direction: 0 = Up, 1 = Down (10_state.md R29, R38). -/
def dirBit : Direction → BitVec 1
  | .up => 0#1
  | .down => 1#1

/-- The encoding of the state register: IDLE = 0, ACT = 1 (10_state.md R28). -/
def phaseBit : Phase → BitVec 1
  | .idle => 0#1
  | .act => 1#1

/-- The magnitude, 0..128: `256 - u8(b)` for a negative byte, else `u8(b)` (R76, R132). -/
def magnitude (b : Byte) : Nat := if b.getLsbD 7 then 256 - u8 b else u8 b

/-- `duration_ms = 10 * mag`, 0..1280 (R11, R76, R132). -/
def durationMs (b : Byte) : Nat := 10 * magnitude b

/-- The CODEC's duration port `ms[15:0]`, the duration zero-extended (R132, R135). -/
def codecMs (b : Byte) : BitVec 16 := BitVec.ofNat 16 (durationMs b)

/-- The duration as START loads it into the 11 bits of `ms_left` (R11, R153). -/
def loadMs (b : Byte) : BitVec 11 := BitVec.ofNat 11 (durationMs b)

/-- The raw value a command stores, `decode(b)` of 42_codec.md R130. -/
def commandRaw (b : Byte) : Int := s8 b

/-- `display`: `"<up|down>/<ms>ms"`, decimal without leading zeros (R137). A reference function; no port carries it. -/
def display (b : Byte) : String :=
  (match directionOf b with
    | .up => "up/"
    | .down => "down/") ++ Nat.repr (durationMs b) ++ "ms"

/-- The ports of a CODEC with the byte `b` applied (10_state.md R38, 42_codec.md R135). -/
def codecPorts (b : Byte) : CodecPorts := { b := b, dir := directionOf b, ms := codecMs b }

end Sys2Proof.Machine
end

