-- ==== Sys2Proof/Machine/Flags.lean ====
section
/-!
DEFINITION. Everything the spec derives from registers rather than stores: the RBF flags (10_state.md R25), the output ports
(40_wrap_index.md R105, 41_ring_buffer.md R121, 43_dispatch.md R170), the outcome codes (60_exceptions.md R200) and the
observation word (30_encoding.md R85). All read the pre-state (00_scope.md R16).
-/
namespace Sys2Proof.Machine

/-- `empty = (rd == wr)` (R25, R112). -/
def rbfEmpty (q : Rbf) : Bool := decide (q.rd = q.wr)

/-- `full = (((wr + 1) mod L) == rd)` (R25, R111). -/
def rbfFull (cap : Nat) (q : Rbf) : Bool := decide (wrapNext (slots cap) q.wr = q.rd)

/-- `count = (wr - rd) mod L`, on unbounded integers, the least non-negative remainder (R14, R25, R117). -/
def rbfCount (cap : Nat) (q : Rbf) : Nat := (((q.wr : Int) - (q.rd : Int)) % (slots cap : Int)).toNat

/-- `push_ok = (not rst) and push and (not full)` (R114). -/
def pushOk (cap : Nat) (q : Rbf) (rst push : Bool) : Bool := !rst && push && !rbfFull cap q

/-- `push_full = (not rst) and push and full` (R114). -/
def pushFull (cap : Nat) (q : Rbf) (rst push : Bool) : Bool := !rst && push && rbfFull cap q

/-- `pop_valid = (not rst) and pop and (not empty)` (R116). -/
def popValid (q : Rbf) (rst pop : Bool) : Bool := !rst && pop && !rbfEmpty q

/-- The output ports of a stand-alone RBF, with the byte its POP reads where it reads one (R121). -/
def rbfOutputs (cap : Nat) (q : Rbf) (rst push pop : Bool) (head : Byte) : RbfOut where
  pushOk := pushOk cap q rst push
  pushFull := pushFull cap q rst push
  popValid := popValid q rst pop
  popData := if popValid q rst pop then head else 0x00#8
  full := rbfFull cap q
  empty := rbfEmpty q
  count := rbfCount cap q

/-- The output ports of a stand-alone IDX: `cur = value`, `nxt = (value + 1) mod limit` (R100, R103, R105). -/
def idxOutputs (limit value : Nat) : IdxOut := { cur := value, nxt := wrapNext limit value }

/-- `up = (st == ACT) and (cur_dir == 0)` (10_state.md R31). -/
def upLevel (d : Dlcp) : Bool := decide (d.st = .act) && decide (d.curDir = .up)

/-- `down = (st == ACT) and (cur_dir == 1)` (R31). -/
def downLevel (d : Dlcp) : Bool := decide (d.st = .act) && decide (d.curDir = .down)

/-- `status = not (st == ACT)` (R31). -/
def statusLevel (d : Dlcp) : Bool := !decide (d.st = .act)

/-- The controller's output ports (R170); the outcome signals `rx_ok`, `rx_full` are the queue's push outcome (R151). -/
def dlcpOutputs (n : Nat) (d : Dlcp) (rst rxValid : Bool) : DlcpOut where
  rxOk := pushOk n d.queue rst rxValid
  rxFull := pushFull n d.queue rst rxValid
  up := upLevel d
  down := downLevel d
  status := statusLevel d
  qEmpty := rbfEmpty d.queue
  qFull := rbfFull n d.queue
  actRaw := d.curRaw
  actLeft := d.msLeft

/-- Which of its four actions the consumer performs, from the pre-state (R170, R207). -/
def consumerAction (d : Dlcp) : ConsumerAction :=
  match d.st with
  | .idle => if rbfEmpty d.queue then .wait else .start
  | .act => if d.msLeft = 0#11 then .finish else .count

/-- The numeric outcome codes (R200). -/
def outcomeNumber : OutcomeCode → Nat
  | .ok => 0
  | .bufferFull => 1
  | .queueFull => 2
  | .bufferEmpty => 3

/-- The outcome of the push requested in a cycle, if one was, from the ports of that cycle (R114, R200). -/
def pushOutcome (o : RbfOut) : Option OutcomeCode :=
  if o.pushOk then some .ok else if o.pushFull then some .bufferFull else none

/-- The outcome of the pop requested in a cycle: `BufferEmpty`, or none of the codes when it returned a byte (R115, R200, R202).
A pop requested in a reset cycle gets no outcome (R120). -/
def popOutcome (o : RbfOut) (rst pop : Bool) : Option OutcomeCode :=
  if !rst && pop && !o.popValid then some .bufferEmpty else none

/-- The outcome of the byte received in a cycle, if one was (R151, R200, R201). -/
def sendOutcome (o : DlcpOut) : Option OutcomeCode :=
  if o.rxOk then some .ok else if o.rxFull then some .queueFull else none

/-- The consumer's outcome of a cycle without reset: a WAIT is a poll of an empty queue, `BufferEmpty` (R156, R200, R202). -/
def consumerOutcome (d : Dlcp) : Option OutcomeCode :=
  match consumerAction d with
  | .wait => some .bufferEmpty
  | .start => none
  | .finish => none
  | .count => none

/-- The observation word `{rx_ok, rx_full, up, down, status, q_empty, q_full}`, `rx_ok` in bit 6 (30_encoding.md R85). -/
def observation (o : DlcpOut) : BitVec 7 :=
  BitVec.ofBool o.rxOk ++ BitVec.ofBool o.rxFull ++ BitVec.ofBool o.up ++ BitVec.ofBool o.down
    ++ BitVec.ofBool o.status ++ BitVec.ofBool o.qEmpty ++ BitVec.ofBool o.qFull

end Sys2Proof.Machine
end

