-- ==== Sys2Proof/Machine/Ops.lean ====
section
/-!
DEFINITION. The named operations over storage, indices and registers, and the cycle rules of the three clocked blocks
(40_wrap_index.md R105, 41_ring_buffer.md R121, 43_dispatch.md R170) with the CODEC's ports (42_codec.md R135).
DLCP has no exception to take and none to return from (60_exceptions.md R205): no such operation is here.
-/
namespace Sys2Proof.Machine

/-- Go on with the answer of `r`, or stop as it stops. -/
def andThen {α β : Type} (r : Res α) (k : α → Res β) : Res β :=
  match r with
  | .next a => k a
  | .fault f => .fault f
  | .refused f => .refused f

/-! ### Storage (20_memory.md R50, R53) -/

/-- `MemRead(i)`: the byte of slot `i`, or none where the slot holds `⊥` (00_scope.md R15). -/
def memRead : Memory → Nat → Option Byte
  | [], _ => none
  | (a, v) :: m, i => if i = a then some v else memRead m i

/-- `MemWrite(i, v)`: exactly one byte into exactly one slot (R15, R53), keeping slot numbers strictly rising. -/
def memWrite : Memory → Nat → Byte → Memory
  | [], i, v => [(i, v)]
  | (a, w) :: m, i, v =>
    if i < a then (i, v) :: (a, w) :: m
    else if i = a then (i, v) :: m
    else (a, w) :: memWrite m i v

/-- The canonical form of a storage: slot numbers strictly rising. A listed slot always holds a byte, so no entry equals what an
unlisted slot reads as. -/
def Memory.wf : Memory → Bool
  | [] => true
  | [_] => true
  | (a, _) :: (b, w) :: m => decide (a < b) && Memory.wf ((b, w) :: m)

/-- The byte of a slot, or a fault where it holds `⊥` (10_state.md R27, 60_exceptions.md R215). -/
def memFetch (m : Memory) (i : Nat) : Res Byte :=
  match memRead m i with
  | some v => .next v
  | none => .fault .slotBottom

/-! ### What a cycle of a block needs (60_exceptions.md R215)

DEDUCED, safe, log entry 8: the check comes before every cycle of the block, a reset cycle too, and looks at that block alone. -/

/-- An IDX with `limit = 0` is refused (R106); `value >= limit` is a fault (10_state.md R22). -/
def idxReady (limit value : Nat) : Res Unit :=
  if limit = 0 then .refused .limitZero
  else if value < limit then .next ()
  else .fault .idxOutOfRange

/-- An RBF with `C < 2` is refused (R6); an index `>= L` is a fault. -/
def rbfReady (cap : Nat) (q : Rbf) : Res Unit :=
  if cap < 2 then .refused .capacityBelowTwo
  else if q.rd < slots cap ∧ q.wr < slots cap then .next ()
  else .fault .rbfIndexOutOfRange

/-- The controller: its parameters `N` and `K`, its queue, `ms_left` in ACT and `sub` (R215). -/
def dlcpReady (p : Params) (d : Dlcp) : Res Unit :=
  if p.n < 2 then .refused .capacityBelowTwo
  else if p.k < 1 then .refused .clkPerMsZero
  else andThen (rbfReady p.n d.queue) fun _ =>
    if d.st = .act ∧ 1280 < d.msLeft.toNat then .fault .msLeftOutOfRange
    else if d.sub < p.k then .next ()
    else .fault .subOutOfRange

/-! ### The RBF -/

/-- The producer's writes of a successful PUSH: the slot at `wr`, and `wr` advanced at the same edge (R56, R113). -/
def pushWrites (cap : Nat) (q : Rbf) (v : Byte) : Rbf :=
  { q with mem := memWrite q.mem q.wr v, wr := wrapNext (slots cap) q.wr }

/-- The consumer's write of a successful POP: `rd` advanced (R56, R115). -/
def popWrites (cap : Nat) (q : Rbf) : Rbf := { q with rd := wrapNext (slots cap) q.rd }

/-- `rd <- 0; wr <- 0`, no slot written (R120, 70_reset_and_hazards.md R230). -/
def rbfResetRegs (q : Rbf) : Rbf := { q with rd := 0, wr := 0 }

/-- The byte `pop_data` carries: `mem[rd]` when a pop returns one, else 0x00 (R116). A returned `⊥` is a fault (R215). -/
def popByte (q : Rbf) (rst pop : Bool) : Res Byte :=
  if popValid q rst pop then memFetch q.mem q.rd else .next 0x00#8

/-- The registers after the clock edge of a cycle, every condition on the pre-state (R121). -/
def rbfEdge (cap : Nat) (q : Rbf) (rst push pop : Bool) (data : Byte) : Rbf :=
  if rst then rbfResetRegs q
  else
    { mem := if pushOk cap q rst push then memWrite q.mem q.wr data else q.mem
      wr := if pushOk cap q rst push then wrapNext (slots cap) q.wr else q.wr
      rd := if popValid q rst pop then wrapNext (slots cap) q.rd else q.rd }

/-! ### The controller -/

/-- START with the byte `b` at the head of the queue (R153). -/
def startWith (n : Nat) (d : Dlcp) (b : Byte) : Dlcp :=
  { queue := popWrites n d.queue
    st := .act, curRaw := b, curDir := directionOf b, msLeft := loadMs b, sub := 0 }

/-- COUNT: one clock cycle of an actuation elapses (R154). -/
def countCycle (k : Nat) (d : Dlcp) : Dlcp :=
  if d.sub = k - 1 then { d with sub := 0, msLeft := d.msLeft - 1#11 } else { d with sub := d.sub + 1 }

/-- FINISH: `st <- IDLE`, everything else kept (R155). -/
def finishCycle (d : Dlcp) : Dlcp := { d with st := .idle }

/-- The consumer's action of a cycle without reset, from the pre-state (R153 to R156). -/
def consume (p : Params) (d : Dlcp) : Res Dlcp :=
  match consumerAction d with
  | .start => andThen (memFetch d.queue.mem d.queue.rd) fun b => .next (startWith p.n d b)
  | .finish => .next (finishCycle d)
  | .count => .next (countCycle p.k d)
  | .wait => .next d

/-- The producer's writes, taken from the pre-state `d`, put on what the consumer made of `d` (R150, R170). -/
def produce (n : Nat) (d : Dlcp) (v : Byte) (c : Dlcp) : Dlcp :=
  { c with
    queue :=
      { c.queue with mem := memWrite d.queue.mem d.queue.wr v, wr := wrapNext (slots n) d.queue.wr } }

/-- Every register of the controller at its reset value, no slot written (10_state.md R40, 70_reset_and_hazards.md R230). -/
def dlcpResetRegs (d : Dlcp) : Dlcp :=
  { queue := rbfResetRegs d.queue
    st := .idle, curRaw := 0x00#8, curDir := .up, msLeft := 0#11, sub := 0 }

/-- The registers after the clock edge of a cycle (R170). -/
def dlcpEdge (p : Params) (d : Dlcp) (rst rxValid : Bool) (rxByte : Byte) : Res Dlcp :=
  if rst then .next (dlcpResetRegs d)
  else andThen (consume p d) fun c =>
    .next (if pushOk p.n d.queue rst rxValid then produce p.n d rxByte c else c)

/-! ### Updates of the whole state, one per block -/

/-- The IDX after a cycle: its register and the ports it showed. -/
def State.setIdx (s : State) (value : Nat) (out : IdxOut) : State := { s with idx := value, idxOut := out }

/-- The stand-alone RBF after a cycle. -/
def State.setRbf (s : State) (q : Rbf) (out : RbfOut) : State := { s with rbf := q, rbfOut := out }

/-- The controller after a cycle. -/
def State.setDlcp (s : State) (d : Dlcp) (out : DlcpOut) : State := { s with dlcp := d, dlcpOut := out }

/-- The CODEC with a byte applied. -/
def State.setCodec (s : State) (ports : CodecPorts) : State := { s with codec := ports }

/-- The words the host is going to drive. -/
def State.setInputs (s : State) (ws : List PortWord) : State := { s with inputs := ws }

/-! ### The cycle rules -/

/-- One cycle of the stand-alone IDX (40_wrap_index.md R105). -/
def idxCycle (rst adv : Bool) (s : State) : Res State :=
  andThen (idxReady s.params.limit s.idx) fun _ =>
    .next (s.setIdx
      (if rst then 0 else if adv then wrapNext s.params.limit s.idx else s.idx)
      (idxOutputs s.params.limit s.idx))

/-- One cycle of the stand-alone RBF (41_ring_buffer.md R121). -/
def rbfCycle (rst push pop : Bool) (data : Byte) (s : State) : Res State :=
  andThen (rbfReady s.params.c s.rbf) fun _ =>
    andThen (popByte s.rbf rst pop) fun head =>
      .next (s.setRbf (rbfEdge s.params.c s.rbf rst push pop data) (rbfOutputs s.params.c s.rbf rst push pop head))

/-- One cycle of the controller (43_dispatch.md R170). -/
def dlcpCycle (rst rxValid : Bool) (rxByte : Byte) (s : State) : Res State :=
  andThen (dlcpReady s.params s.dlcp) fun _ =>
    andThen (dlcpEdge s.params s.dlcp rst rxValid rxByte) fun d =>
      .next (s.setDlcp d (dlcpOutputs s.params.n s.dlcp rst rxValid))

/-- A byte applied to the stand-alone CODEC, which has no state and cannot fail (42_codec.md R130, R135; log entry 11). -/
def codecApply (b : Byte) (s : State) : Res State := .next (s.setCodec (codecPorts b))

end Sys2Proof.Machine
end

