-- ==== Sys2Proof/Machine/Command.lean ====
section
/-!
DEFINITION. The command bytes on a stand-alone CODEC (42_codec.md). Inside the controller the same functions are applied by START.
-/
namespace Sys2Proof.Machine

/-- `CMD.UP`, the byte `{0, m}` (R133). -/
def execCmdUp (m : BitVec 7) (s : State) : Res State := codecApply (0b0#1 ++ m) s

/-- `CMD.DOWN`, the byte `{1, m}` (R134). -/
def execCmdDown (m : BitVec 7) (s : State) : Res State := codecApply (0b1#1 ++ m) s

end Sys2Proof.Machine
end

