-- ==== Sys2Proof/Machine/Controller.lean ====
section
/-!
DEFINITION. The operations of the dispatch queue controller (43_dispatch.md), each one input pattern of the cycle rule R170.
-/
namespace Sys2Proof.Machine

/-- `DLCP.NOP`: no byte this cycle; the consumer acts (R152). -/
def execDlcpNop (s : State) : Res State := dlcpCycle false false 0x00#8 s

/-- `DLCP.SEND v`: the byte `v` is received, and the consumer acts (R150). -/
def execDlcpSend (v : Byte) (s : State) : Res State := dlcpCycle false true v s

/-- `DLCP.RESET`; a byte presented in the cycle is ignored (R230, R236). -/
def execDlcpReset (s : State) : Res State := dlcpCycle true false 0x00#8 s

end Sys2Proof.Machine
end

