-- ==== Sys2Proof/Machine/Idx.lean ====
section
/-!
DEFINITION. The operations of a stand-alone IDX (40_wrap_index.md), each one input pattern of the cycle rule R105.
-/
namespace Sys2Proof.Machine

/-- `IDX.HOLD` (R102). -/
def execIdxHold (s : State) : Res State := idxCycle false false s

/-- `IDX.ADV` (R101). -/
def execIdxAdv (s : State) : Res State := idxCycle false true s

/-- `IDX.RESET`; the ignored `adv` bit has no effect (R104). -/
def execIdxReset (s : State) : Res State := idxCycle true false s

end Sys2Proof.Machine
end

