-- ==== Sys2Proof/Machine/Ring.lean ====
section
/-!
DEFINITION. The operations of a stand-alone RBF (41_ring_buffer.md), each one input pattern of the cycle rule R121.
-/
namespace Sys2Proof.Machine

/-- `RBF.NOP` (R118). -/
def execRbfNop (s : State) : Res State := rbfCycle false false false 0x00#8 s

/-- `RBF.PUSH v` (R113). -/
def execRbfPush (v : Byte) (s : State) : Res State := rbfCycle false true false v s

/-- `RBF.POP` (R115). -/
def execRbfPop (s : State) : Res State := rbfCycle false false true 0x00#8 s

/-- `RBF.PUSHPOP v` (R119). -/
def execRbfPushpop (v : Byte) (s : State) : Res State := rbfCycle false true true v s

/-- `RBF.RESET`; a push or pop in a reset cycle is not performed (R120). -/
def execRbfReset (s : State) : Res State := rbfCycle true false false 0x00#8 s

end Sys2Proof.Machine
end

