-- ==== Sys2Proof/Machine/Dispatch.lean ====
section
/-!
DEFINITION. The meaning of every operation of spec/opcode_table.json, one arm per constructor.
-/
namespace Sys2Proof.Machine

def exec (i : Instr) (s : State) : Host.Outcome State Fault Refusal :=
  match i with
  | .dlcpNop => Sys2Proof.Machine.execDlcpNop s
  | .dlcpSend v => Sys2Proof.Machine.execDlcpSend v s
  | .dlcpReset => Sys2Proof.Machine.execDlcpReset s
  | .rbfNop => Sys2Proof.Machine.execRbfNop s
  | .rbfPush v => Sys2Proof.Machine.execRbfPush v s
  | .rbfPop => Sys2Proof.Machine.execRbfPop s
  | .rbfPushpop v => Sys2Proof.Machine.execRbfPushpop v s
  | .rbfReset => Sys2Proof.Machine.execRbfReset s
  | .idxHold => Sys2Proof.Machine.execIdxHold s
  | .idxAdv => Sys2Proof.Machine.execIdxAdv s
  | .idxReset => Sys2Proof.Machine.execIdxReset s
  | .cmdUp m => Sys2Proof.Machine.execCmdUp m s
  | .cmdDown m => Sys2Proof.Machine.execCmdDown m s

end Sys2Proof.Machine
end

