-- ==== Sys2Proof/Decode.lean ====
section
/-!
DEFINITION. The decoder and the encoder of the four formats (30_encoding.md R70 to R82) and the opcode table.
Every word of a format selects exactly one operation (R81), so `decode` is total on port words. What can be refused is a raw
number or a list of bytes that is no word of the format.
-/
namespace Sys2Proof

/-- Why raw bits are no word of a format (R70: each format has one fixed width). -/
inductive DecodeError where
  /-- The number has a 1 above the format's width. -/
  | tooWide (f : Format)
  /-- The list is not the whole number of bytes that holds one word of the format. -/
  | wrongLength (f : Format)
deriving DecidableEq, Repr

/-- DLCP-CYC, selected by `w[9:8]`: NOP `00`, SEND `01`, RESET `1-` (R72, R77). -/
def decodeDlcp (w : BitVec 10) : Instr :=
  if w.getLsbD 9 then .dlcpReset
  else if w.getLsbD 8 then .dlcpSend (w.extractLsb' 0 8)
  else .dlcpNop

/-- RBF-CYC, selected by `w[10:8]`: NOP `000`, PUSH `010`, POP `001`, PUSHPOP `011`, RESET `1--` (R73, R78). -/
def decodeRbf (w : BitVec 11) : Instr :=
  if w.getLsbD 10 then .rbfReset
  else if w.getLsbD 9 then
    if w.getLsbD 8 then .rbfPushpop (w.extractLsb' 0 8) else .rbfPush (w.extractLsb' 0 8)
  else if w.getLsbD 8 then .rbfPop
  else .rbfNop

/-- IDX-CYC, selected by `w[1:0]`: HOLD `00`, ADV `01`, RESET `1-` (R74, R79). -/
def decodeIdx (w : BitVec 2) : Instr :=
  if w.getLsbD 1 then .idxReset
  else if w.getLsbD 0 then .idxAdv
  else .idxHold

/-- CMD, selected by `b[7]`: UP `0`, DOWN `1`, with `M = b[6:0]` (R71, R80). -/
def decodeCmd (b : BitVec 8) : Instr :=
  if b.getLsbD 7 then .cmdDown (b.extractLsb' 0 7) else .cmdUp (b.extractLsb' 0 7)

/-- The operation a port word selects: total, no reserved encoding (R81). -/
def decode : PortWord → Instr
  | .dlcp w => decodeDlcp w
  | .rbf w => decodeRbf w
  | .idx w => decodeIdx w
  | .cmd b => decodeCmd b

/-- The port word of an operation, ignored bits written 0 (R77 to R80, R83). -/
def encode : Instr → PortWord
  | .dlcpNop => .dlcp 0b0000000000#10
  | .dlcpSend v => .dlcp (0b01#2 ++ v)
  | .dlcpReset => .dlcp 0b1000000000#10
  | .rbfNop => .rbf 0b00000000000#11
  | .rbfPush v => .rbf (0b010#3 ++ v)
  | .rbfPop => .rbf 0b00100000000#11
  | .rbfPushpop v => .rbf (0b011#3 ++ v)
  | .rbfReset => .rbf 0b10000000000#11
  | .idxHold => .idx 0b00#2
  | .idxAdv => .idx 0b01#2
  | .idxReset => .idx 0b10#2
  | .cmdUp m => .cmd (0b0#1 ++ m)
  | .cmdDown m => .cmd (0b1#1 ++ m)

/-- The bits of a port word as a number, bit 0 least significant (R13). -/
def PortWord.bits : PortWord → Nat
  | .dlcp w => w.toNat
  | .rbf w => w.toNat
  | .idx w => w.toNat
  | .cmd b => b.toNat

/-- A number read as a word of a format; refused by name when it is wider than the port. -/
def wordOfBits (f : Format) (w : Nat) : Except DecodeError PortWord :=
  if f.fits w then
    match f with
    | .dlcpCyc => .ok (.dlcp (BitVec.ofNat 10 w))
    | .rbfCyc => .ok (.rbf (BitVec.ofNat 11 w))
    | .idxCyc => .ok (.idx (BitVec.ofNat 2 w))
    | .cmd => .ok (.cmd (BitVec.ofNat 8 w))
  else .error (.tooWide f)

/-- The number that a list of bytes stands for, the first byte holding bits 7..0. -/
def bitsOfBytes : List Byte → Nat
  | [] => 0
  | b :: bs => b.toNat + 256 * bitsOfBytes bs

/-- The first `len` bytes of a number, the byte of bits 7..0 first. -/
def bytesOfBits (len w : Nat) : List Byte :=
  (List.range len).map fun i => BitVec.ofNat 8 (w / 256 ^ i)

/-- A format's words in whole bytes. -/
def formatBytes (f : Format) : Nat := (f.width + 7) / 8

/-- A port word from any bytes: refused by name when they are no word of the format. -/
def wordOfBytes (f : Format) (bytes : List Byte) : Except DecodeError PortWord :=
  if bytes.length = formatBytes f then wordOfBits f (bitsOfBytes bytes) else .error (.wrongLength f)

/-- The decoder on any bytes. -/
def decodeBytes (f : Format) (bytes : List Byte) : Except DecodeError Instr :=
  match wordOfBytes f bytes with
  | .ok w => .ok (decode w)
  | .error e => .error e

/-- One row of spec/opcode_table.json: a word `w` of the format is this row's when `w &&& mask = value`. -/
structure OpcodeRow where
  mnemonic : String
  format : Format
  mask : Nat
  value : Nat
deriving DecidableEq, Repr

/-- spec/opcode_table.json, row by row, in its order. -/
def opcodeTable : List OpcodeRow :=
  [ ⟨"DLCP.NOP", .dlcpCyc, 0x300, 0x000⟩,
    ⟨"DLCP.SEND", .dlcpCyc, 0x300, 0x100⟩,
    ⟨"DLCP.RESET", .dlcpCyc, 0x200, 0x200⟩,
    ⟨"RBF.NOP", .rbfCyc, 0x700, 0x000⟩,
    ⟨"RBF.PUSH", .rbfCyc, 0x700, 0x200⟩,
    ⟨"RBF.POP", .rbfCyc, 0x700, 0x100⟩,
    ⟨"RBF.PUSHPOP", .rbfCyc, 0x700, 0x300⟩,
    ⟨"RBF.RESET", .rbfCyc, 0x400, 0x400⟩,
    ⟨"IDX.HOLD", .idxCyc, 0x3, 0x0⟩,
    ⟨"IDX.ADV", .idxCyc, 0x3, 0x1⟩,
    ⟨"IDX.RESET", .idxCyc, 0x2, 0x2⟩,
    ⟨"CMD.UP", .cmd, 0x80, 0x00⟩,
    ⟨"CMD.DOWN", .cmd, 0x80, 0x80⟩ ]

/-- A port word matches a row of the table. -/
def OpcodeRow.hits (r : OpcodeRow) (w : PortWord) : Bool :=
  decide (r.format = w.format) && decide (w.bits &&& r.mask = r.value)

/-- The table's mnemonic of an operation, letter for letter. -/
def mnemonicOf : Instr → String
  | .dlcpNop => "DLCP.NOP"
  | .dlcpSend _ => "DLCP.SEND"
  | .dlcpReset => "DLCP.RESET"
  | .rbfNop => "RBF.NOP"
  | .rbfPush _ => "RBF.PUSH"
  | .rbfPop => "RBF.POP"
  | .rbfPushpop _ => "RBF.PUSHPOP"
  | .rbfReset => "RBF.RESET"
  | .idxHold => "IDX.HOLD"
  | .idxAdv => "IDX.ADV"
  | .idxReset => "IDX.RESET"
  | .cmdUp _ => "CMD.UP"
  | .cmdDown _ => "CMD.DOWN"

/-- The bits an operation reads: those that select it and those of its operand. Every other bit of the word is ignored (R77 to
R81). -/
def usedBits : Instr → Nat
  | .dlcpNop => 0x300
  | .dlcpSend _ => 0x3FF
  | .dlcpReset => 0x200
  | .rbfNop => 0x700
  | .rbfPush _ => 0x7FF
  | .rbfPop => 0x700
  | .rbfPushpop _ => 0x7FF
  | .rbfReset => 0x400
  | .idxHold => 0x3
  | .idxAdv => 0x3
  | .idxReset => 0x2
  | .cmdUp _ => 0xFF
  | .cmdDown _ => 0xFF

/-- DESIGN CHOICE, log entry 5: the port a bare table number is meant for. A number alone does not say it, since the formats
share their bit patterns: 10 and 11 bits both round up to two bytes, 2 and 8 bits to one. The exact widths 10, 11 and 2 name
their format. Of two bytes, a number up to 0x200 (NOP, SEND, and RESET with its ignored bits 0, as R83 writes it) goes to the
controller, the top level (00_scope.md R2), and every larger one to the RBF. Of one byte, a number of two bits goes to the IDX
and every other one to the CODEC. -/
def tableFormat (nbits w : Nat) : Option Format :=
  if nbits = 10 then some .dlcpCyc
  else if nbits = 11 then some .rbfCyc
  else if nbits = 2 then some .idxCyc
  else if nbits = 8 then some (if w < 4 then .idxCyc else .cmd)
  else if nbits = 16 then some (if w ≤ 0x200 then .dlcpCyc else .rbfCyc)
  else none

/-- The port word that a bare table number stands for, laid out in bytes and read back by the decoder's own reader. -/
def tableWord (nbits w : Nat) : Option PortWord :=
  match tableFormat nbits w with
  | none => none
  | some f =>
    if w < 256 ^ formatBytes f then
      match wordOfBytes f (bytesOfBits (formatBytes f) w) with
      | .ok p => some p
      | .error _ => none
    else none

/-- The operation the decoder reads from a bare table number (log entry 5). -/
def decodeTableWord (nbits w : Nat) : Option Instr := (tableWord nbits w).map decode

end Sys2Proof
end

