-- ==== Sys2Proof/Machine/Fetch.lean ====
section
/-!
DEFINITION. Where the next cycle word comes from. DLCP has no program counter and fetches nothing (10_state.md R21,
20_memory.md R62): the host drives a word on a block's input ports in each cycle (60_exceptions.md R214), and `inputs` holds the
words it is going to drive (log entry 3).
-/
namespace Sys2Proof.Machine

/-- The word of a cycle in which the host presents no byte: DLCP.NOP on the controller. -/
def idleWord : PortWord := .dlcp 0b0000000000#10

/-- The next word and the state with it taken off the host's schedule. DESIGN CHOICE, unsafe, log entry 4: when the host has
nothing scheduled, no byte is presented and the controller's clock goes on (R213: it acts in every clock cycle). -/
def fetch (s : State) : PortWord × State :=
  match s.inputs with
  | [] => (idleWord, s)
  | w :: ws => (w, s.setInputs ws)

/-- The word of a bare table number put first on the host's schedule; nothing changes where the number is no word. -/
def placeTableWord (s : State) (nbits w : Nat) : State :=
  match tableWord nbits w with
  | some p => s.setInputs (p :: s.inputs)
  | none => s

end Sys2Proof.Machine
end

