-- ==== Sys2Proof/Machine/Step.lean ====
section
/-!
DEFINITION. One step: one clock cycle of the block whose word comes next (00_scope.md R12).
-/
namespace Sys2Proof.Machine

/-- Take the next word the host drives, decode it, perform its operation. -/
def step (s : State) : Host.Outcome State Fault Refusal := exec (decode (fetch s).1) (fetch s).2

/-- The state in which the host drives, in the very next cycle, the word of a bare table number (log entries 3 and 5). -/
def State.withFetchWord (s : State) (nbits w : Nat) : State := placeTableWord s nbits w

end Sys2Proof.Machine
end

