-- ==== Sys2Proof/Machine/Asm.lean ====
section
/-!
DEFINITION. The test syntax of 30_encoding.md R83 and R84: each line stands for one or more consecutive cycles. It exists for
test programs only; no port carries it.
-/
namespace Sys2Proof.Machine

/-- Why a test program is refused. -/
inductive AsmError where
  /-- A number outside the range R83 or R84 gives the line. -/
  | badOperand (l : AsmLine)
  /-- Line number `n`, counting from 1, is no line of the syntax. -/
  | badLine (n : Nat)
deriving DecidableEq, Repr

/-- The cycles of a line, with numbers in range (R83, R84): `UP t` is `SEND (t / 10)`, `DOWN t` is `SEND (256 - t / 10)`. -/
def lineInstrs : AsmLine → List Instr
  | .dlcpNop n => List.replicate n .dlcpNop
  | .dlcpSend v => [.dlcpSend (BitVec.ofNat 8 v)]
  | .dlcpReset => [.dlcpReset]
  | .up t => [.dlcpSend (BitVec.ofNat 8 (t / 10))]
  | .down t => [.dlcpSend (BitVec.ofNat 8 (256 - t / 10))]
  | .rbfNop n => List.replicate n .rbfNop
  | .rbfPush v => [.rbfPush (BitVec.ofNat 8 v)]
  | .rbfPop => [.rbfPop]
  | .rbfPushpop v => [.rbfPushpop (BitVec.ofNat 8 v)]
  | .rbfReset => [.rbfReset]
  | .idxHold => [.idxHold]
  | .idxAdv => [.idxAdv]
  | .idxReset => [.idxReset]

/-- The words of a line; a number out of range is refused (R84). -/
def assembleLine (l : AsmLine) : Except AsmError (List PortWord) :=
  if l.wf then .ok ((lineInstrs l).map encode) else .error (.badOperand l)

/-- The words of a program. -/
def assemble : List AsmLine → Except AsmError (List PortWord)
  | [] => .ok []
  | l :: ls =>
    match assembleLine l, assemble ls with
    | .ok ws, .ok vs => .ok (ws ++ vs)
    | .error e, _ => .error e
    | .ok _, .error e => .error e

/-! ### Reading a program text. DESIGN CHOICE, safe, log entry 14: words are separated by blanks, letters are as R83 writes them. -/

/-- A digit of a number in base 10 or 16. -/
def digitValue (base : Nat) (c : Char) : Option Nat :=
  let n := c.toNat
  let d :=
    if 48 ≤ n ∧ n ≤ 57 then n - 48
    else if 65 ≤ n ∧ n ≤ 70 then n - 55
    else if 97 ≤ n ∧ n ≤ 102 then n - 87
    else base
  if d < base then some d else none

/-- The value of a non-empty list of digits, read on from `acc`. -/
def readDigits (base acc : Nat) : List Char → Option Nat
  | [] => some acc
  | c :: cs =>
    match digitValue base c with
    | some d => readDigits base (base * acc + d) cs
    | none => none

/-- A number as R83 writes it: hexadecimal `0x..` or unsigned decimal. -/
def readNumber : List Char → Option Nat
  | '0' :: 'x' :: c :: cs => readDigits 16 0 (c :: cs)
  | c :: cs => readDigits 10 0 (c :: cs)
  | [] => none

/-- The words of a line: cut at blanks, the comment that `;` starts left out. -/
def lineTokens (line : List Char) : List (List Char) :=
  ((line.takeWhile (· != ';')).splitOnP fun c => c = ' ' || c = '\t' || c = '\r').filter (· ≠ [])

/-- The tokens of one line of a program for the block of format `f`; the CODEC has no test program. -/
def readLine (f : Format) (tokens : List (List Char)) : Option AsmLine :=
  match f, tokens.map String.ofList, tokens with
  | .dlcpCyc, ["NOP"], _ => some (.dlcpNop 1)
  | .dlcpCyc, ["NOP", _], [_, n] => (readNumber n).map .dlcpNop
  | .dlcpCyc, ["SEND", _], [_, v] => (readNumber v).map .dlcpSend
  | .dlcpCyc, ["UP", _], [_, t] => (readNumber t).map .up
  | .dlcpCyc, ["DOWN", _], [_, t] => (readNumber t).map .down
  | .dlcpCyc, ["RESET"], _ => some .dlcpReset
  | .rbfCyc, ["NOP"], _ => some (.rbfNop 1)
  | .rbfCyc, ["NOP", _], [_, n] => (readNumber n).map .rbfNop
  | .rbfCyc, ["PUSH", _], [_, v] => (readNumber v).map .rbfPush
  | .rbfCyc, ["POP"], _ => some .rbfPop
  | .rbfCyc, ["PUSHPOP", _], [_, v] => (readNumber v).map .rbfPushpop
  | .rbfCyc, ["RESET"], _ => some .rbfReset
  | .idxCyc, ["HOLD"], _ => some .idxHold
  | .idxCyc, ["ADV"], _ => some .idxAdv
  | .idxCyc, ["RESET"], _ => some .idxReset
  | _, _, _ => none

/-- The lines of a program text, numbered from `n`; a line without tokens stands for no cycle. -/
def readLines (f : Format) (n : Nat) : List (List Char) → Except AsmError (List AsmLine)
  | [] => .ok []
  | l :: ls =>
    match readLines f (n + 1) ls with
    | .error e => .error e
    | .ok rest =>
      if lineTokens l = [] then .ok rest
      else
        match readLine f (lineTokens l) with
        | some a => .ok (a :: rest)
        | none => .error (.badLine n)

/-- A program text for the block of format `f`, one operation a line (R83), as port words. -/
def assembleText (f : Format) (text : String) : Except AsmError (List PortWord) :=
  match readLines f 1 (text.toList.splitOnP (· = '\n')) with
  | .ok ls => assemble ls
  | .error e => .error e

end Sys2Proof.Machine
end

