-- ==== Sys2Proof/Machine/Atomic.lean ====
section
/-!
DEFINITION. The interleaving model of 20_memory.md R57: the actions PUSH, POP, START, COUNT, FINISH as atomic actions, each
reading the state the one before it left, in any order a schedule gives (log entry 16). The synchronous cycle rule is one of
these orders. This model is for statements; `step` does not use it.
-/
namespace Sys2Proof.Machine

/-- What a run let in and took out: the bytes accepted by successful PUSHes and the bytes returned by successful POPs (a START
takes one), each in order (R58). -/
structure QueueLog where
  accepted : List Byte
  taken : List Byte
deriving DecidableEq, Repr

/-- Nothing let in, nothing taken out. -/
def emptyLog : QueueLog := { accepted := [], taken := [] }

/-- One log after another. -/
def joinLog (a b : QueueLog) : QueueLog := { accepted := a.accepted ++ b.accepted, taken := a.taken ++ b.taken }

/-- The atomic actions on a stand-alone RBF. -/
inductive RbfAction where
  | push (v : Byte)
  | pop
deriving DecidableEq, Repr

/-- The atomic actions of the controller's two agents. -/
inductive DlcpAction where
  | push (v : Byte)
  | start
  | count
  | finish
deriving DecidableEq, Repr

/-- PUSH as one action (R113): `Full` writes nothing; otherwise the slot is written and `wr` advanced. -/
def atomicPush (cap : Nat) (q : Rbf) (v : Byte) : Rbf × OutcomeCode :=
  if rbfFull cap q then (q, .bufferFull) else (pushWrites cap q v, .ok)

/-- POP as one action (R115): `None` changes nothing; otherwise the byte at `rd`, and `rd` advanced. -/
def atomicPop (cap : Nat) (q : Rbf) : Res (Rbf × Option Byte) :=
  if rbfEmpty q then .next (q, none)
  else andThen (memFetch q.mem q.rd) fun v => .next (popWrites cap q, some v)

/-- One atomic action on an RBF, with what it let in or took out. -/
def rbfAct (cap : Nat) (q : Rbf) : RbfAction → Res (Rbf × QueueLog)
  | .push v =>
    .next ((atomicPush cap q v).1,
      { accepted := if (atomicPush cap q v).2 = .ok then [v] else [], taken := [] })
  | .pop => andThen (atomicPop cap q) fun r => .next (r.1, { accepted := [], taken := r.2.toList })

/-- A schedule of atomic actions on an RBF: any list of them is an interleaving of its two agents. -/
def rbfInterleave (cap : Nat) : List RbfAction → Rbf → Res (Rbf × QueueLog)
  | [], q => .next (q, emptyLog)
  | a :: as, q =>
    andThen (rbfAct cap q a) fun r =>
      andThen (rbfInterleave cap as r.1) fun t => .next (t.1, joinLog r.2 t.2)

/-- One atomic action of the controller. START, COUNT and FINISH happen only where their rules' conditions hold (R153 to R155);
PUSH is the producer's SEND (R150). -/
def dlcpAct (p : Params) (d : Dlcp) : DlcpAction → Res (Dlcp × QueueLog)
  | .push v =>
    .next ({ d with queue := (atomicPush p.n d.queue v).1 },
      { accepted := if (atomicPush p.n d.queue v).2 = .ok then [v] else [], taken := [] })
  | .start =>
    if consumerAction d = .start then
      andThen (memFetch d.queue.mem d.queue.rd) fun b =>
        .next (startWith p.n d b, { accepted := [], taken := [b] })
    else .refused .actionNotEnabled
  | .count => if consumerAction d = .count then .next (countCycle p.k d, emptyLog) else .refused .actionNotEnabled
  | .finish => if consumerAction d = .finish then .next (finishCycle d, emptyLog) else .refused .actionNotEnabled

/-- A schedule of atomic actions of the controller. -/
def dlcpInterleave (p : Params) : List DlcpAction → Dlcp → Res (Dlcp × QueueLog)
  | [], d => .next (d, emptyLog)
  | a :: as, d =>
    andThen (dlcpAct p d a) fun r =>
      andThen (dlcpInterleave p as r.1) fun t => .next (t.1, joinLog r.2 t.2)

end Sys2Proof.Machine
end

