-- ==== Sys2Proof/Machine/Run.lean ====
section
/-!
DEFINITION. Runs (70_reset_and_hazards.md R251, R252): the launch, the state after a list of words, and what the queue let in
and gave out on the way.
-/
namespace Sys2Proof.Machine

/-- The start of a run with the parameters `p` and the words `ws`: the reset state with the words scheduled. Configurations of
60_exceptions.md R215 are refused, and so is a list of words that is no run (R234, R251; log entry 12). -/
def launch (p : Params) (ws : List PortWord) : Res State :=
  if p.c < 2 ∨ p.n < 2 then .refused .capacityBelowTwo
  else if p.k < 1 then .refused .clkPerMsZero
  else if p.limit < 1 then .refused .limitZero
  else if runWf ws then .next ((State.resetWith p).setInputs ws)
  else .refused .runWithoutReset

/-- The state after a list of words, each driven in one cycle of its block. -/
def driveWords : List PortWord → State → Res State
  | [], s => .next s
  | w :: ws, s => andThen (exec (decode w) s) (driveWords ws)

/-- `k` steps, stopping at the first fault or refusal: the host's `run` on this machine. -/
def stepTimes : Nat → State → Res State
  | 0, s => .next s
  | k + 1, s => andThen (step s) (stepTimes k)

/-- A whole run: its end state is the state after the edge of its last word (R252). -/
def runWords (p : Params) (ws : List PortWord) : Res State := andThen (launch p ws) (stepTimes ws.length)

/-- What one cycle let into the controller's queue and started: a byte with `rx_ok = 1`, and `cur_raw` of a START (R161). -/
def dlcpEntry (i : Instr) (s t : State) : QueueLog where
  accepted :=
    match i with
    | .dlcpSend v => if t.dlcpOut.rxOk then [v] else []
    | _ => []
  taken := if s.dlcp.st = .idle ∧ t.dlcp.st = .act then [t.dlcp.curRaw] else []

/-- What one cycle let into the stand-alone RBF and returned: a byte with `push_ok = 1`, and `pop_data` with `pop_valid = 1`
(R58). -/
def rbfEntry (i : Instr) (t : State) : QueueLog :=
  match i with
  | .rbfPush v => { accepted := if t.rbfOut.pushOk then [v] else [], taken := [] }
  | .rbfPop => { accepted := [], taken := if t.rbfOut.popValid then [t.rbfOut.popData] else [] }
  | .rbfPushpop v =>
    { accepted := if t.rbfOut.pushOk then [v] else []
      taken := if t.rbfOut.popValid then [t.rbfOut.popData] else [] }
  | _ => emptyLog

/-- The log of the controller's queue over a list of words. -/
def dlcpLog : List PortWord → State → QueueLog
  | [], _ => emptyLog
  | w :: ws, s =>
    match exec (decode w) s with
    | .next t => joinLog (dlcpEntry (decode w) s t) (dlcpLog ws t)
    | .fault _ => emptyLog
    | .refused _ => emptyLog

/-- The log of the stand-alone RBF over a list of words. -/
def rbfLog : List PortWord → State → QueueLog
  | [], _ => emptyLog
  | w :: ws, s =>
    match exec (decode w) s with
    | .next t => joinLog (rbfEntry (decode w) t) (rbfLog ws t)
    | .fault _ => emptyLog
    | .refused _ => emptyLog

/-- The observation words of the controller over a list of words, one a cycle (30_encoding.md R85). -/
def observations : List PortWord → State → List (BitVec 7)
  | [], _ => []
  | w :: ws, s =>
    match exec (decode w) s with
    | .next t => observation t.dlcpOut :: observations ws t
    | .fault _ => []
    | .refused _ => []

end Sys2Proof.Machine
end

