-- ==== Sys2Proof/Safety.lean ====
section
/-!
DEFINITION. The terms claims are stated in: the invariants of 10_state.md R22, R26, R29, the abstract queue of 41_ring_buffer.md
R124, and when a run is drained (70_reset_and_hazards.md R252).
-/
namespace Sys2Proof.Machine

/-- The invariants of an RBF of capacity `cap` (10_state.md R26): both indices in range, every live slot holds a byte, and the
storage, in its canonical form, lists slots that exist. -/
abbrev RbfInv (cap : Nat) (q : Rbf) : Prop :=
  Memory.wf q.mem = true ∧ (∀ cell ∈ q.mem, cell.1 < slots cap) ∧ q.rd < slots cap ∧ q.wr < slots cap ∧
    ∀ j < rbfCount cap q, (memRead q.mem ((q.rd + j) % slots cap)).isSome = true

/-- The invariants of the controller: its queue's, and the ranges of `ms_left` and `sub` (10_state.md R29). -/
abbrev DlcpInv (p : Params) (d : Dlcp) : Prop :=
  RbfInv p.n d.queue ∧ d.msLeft.toNat ≤ 1280 ∧ d.sub < p.k

/-- What every reachable state satisfies: permitted parameters and every block's invariants (R22, R26, R29, R215). -/
abbrev GoodState (s : State) : Prop :=
  s.params.wf = true ∧ DlcpInv s.params s.dlcp ∧ RbfInv s.params.c s.rbf ∧ s.idx < s.params.limit

/-- The conditions under which a cycle of the stand-alone IDX runs (10_state.md R22, 60_exceptions.md R215). -/
abbrev IdxCanRun (s : State) : Prop := 1 ≤ s.params.limit ∧ s.idx < s.params.limit

/-- The conditions under which a cycle of the stand-alone RBF runs that reads no slot (60_exceptions.md R215). -/
abbrev RbfCanRun (s : State) : Prop :=
  2 ≤ s.params.c ∧ s.rbf.rd < slots s.params.c ∧ s.rbf.wr < slots s.params.c

/-- The slot a pop of a non-empty stand-alone RBF reads holds a byte (10_state.md R27). -/
abbrev RbfHeadHolds (s : State) : Prop := s.rbf.rd ≠ s.rbf.wr → (memRead s.rbf.mem s.rbf.rd).isSome = true

/-- The ports `full`, `empty` and `count` show the RBF `q` (10_state.md R25, 41_ring_buffer.md R121). -/
abbrev FlagPortsShow (cap : Nat) (q : Rbf) (o : RbfOut) : Prop :=
  (o.full = true ↔ (q.wr + 1) % slots cap = q.rd) ∧ (o.empty = true ↔ q.rd = q.wr) ∧ o.count = rbfCount cap q

/-- The conditions under which a reset cycle of the controller runs (60_exceptions.md R215). -/
abbrev DlcpInRange (s : State) : Prop :=
  2 ≤ s.params.n ∧ 1 ≤ s.params.k ∧ s.dlcp.queue.rd < slots s.params.n ∧ s.dlcp.queue.wr < slots s.params.n ∧
    (s.dlcp.st = .act → s.dlcp.msLeft.toNat ≤ 1280) ∧ s.dlcp.sub < s.params.k

/-- The conditions under which every cycle of the controller runs: in range, and a START would read a slot that holds a byte
(60_exceptions.md R215). -/
abbrev DlcpCanRun (s : State) : Prop :=
  DlcpInRange s ∧
    (s.dlcp.st = .idle → s.dlcp.queue.rd ≠ s.dlcp.queue.wr →
      (memRead s.dlcp.queue.mem s.dlcp.queue.rd).isSome = true)

/-- The operations of the controller that are not a reset. -/
abbrev DlcpActive (i : Instr) : Prop := i = .dlcpNop ∨ ∃ v, i = .dlcpSend v

/-- What the producer's side of a controller cycle leaves alone: every slot but the one at `wr`, and with no byte accepted the
whole storage and `wr` (10_state.md R24, 43_dispatch.md R150). -/
abbrev ProducerFrame (s t : State) : Prop :=
  (∀ a, a ≠ s.dlcp.queue.wr → memRead t.dlcp.queue.mem a = memRead s.dlcp.queue.mem a) ∧
    (t.dlcpOut.rxOk = false → t.dlcp.queue.mem = s.dlcp.queue.mem ∧ t.dlcp.queue.wr = s.dlcp.queue.wr)

/-- The clock cycles of COUNT that an actuation still has before its FINISH (43_dispatch.md R154, R159). -/
def remainingCycles (k : Nat) (d : Dlcp) : Nat := if d.msLeft = 0#11 then 0 else d.msLeft.toNat * k - d.sub

/-- `Q`, the bytes of the live slots, oldest first (41_ring_buffer.md R124). -/
def liveBytes (cap : Nat) (q : Rbf) : List Byte :=
  (List.range (rbfCount cap q)).filterMap fun j => memRead q.mem ((q.rd + j) % slots cap)

/-- Nothing in flight and nothing pending (70_reset_and_hazards.md R252). -/
abbrev Drained (d : Dlcp) : Prop := d.st = .idle ∧ rbfEmpty d.queue = true

/-- The word is a cycle of the controller without reset. -/
def activeDlcpWord (w : PortWord) : Bool := decide (w.format = .dlcpCyc) && !w.isReset

/-- The word is a cycle of the stand-alone RBF without reset. -/
def activeRbfWord (w : PortWord) : Bool := decide (w.format = .rbfCyc) && !w.isReset

/-- The in-flight (or last) command's registers belong to its raw byte (10_state.md R29, R37). -/
abbrev CommandMatches (d : Dlcp) : Prop := d.curDir = directionOf d.curRaw ∧ d.msLeft.toNat ≤ durationMs d.curRaw

end Sys2Proof.Machine
end

