-- ==== Sys2Proof/Certificates/Slice0/Obligations.lean ====
section
/-!
DEFINITION. The statements for the provers, from the numbered rules of spec/. They prove nothing here. The parameters C, N, K and
LIMIT are fields of the state, so a statement about every state is about every configuration.
-/
open Sys2Proof Sys2Proof.Machine

/-! ### Encodings (30_encoding.md) -/

/-- For every operation, every operand value: its word, and the bytes that hold the word, decode to it. -/
def Obligations.EncodedBytesDecodeToTheOperation : Prop :=
  ∀ i : Instr, decode (encode i) = i ∧
    decodeBytes (encode i).format (bytesOfBits (formatBytes (encode i).format) (encode i).bits) = .ok i

/-- R77 to R81: bits an operation ignores have no effect on decoding, and no other bit is dropped. -/
def Obligations.DecodingReadsExactlyTheUsedBits : Prop :=
  ∀ w : PortWord, (encode (decode w)).format = w.format ∧
    (encode (decode w)).bits = w.bits &&& usedBits (decode w)

/-- R77 to R81: every word of every format is a word of exactly one row of the table, the row of the operation it decodes to. -/
def Obligations.EveryWordSelectsExactlyItsTableRow : Prop :=
  ∀ w : PortWord, (opcodeTable.filter fun r => r.hits w).map OpcodeRow.mnemonic = [mnemonicOf (decode w)]

/-- Words written out from the bit patterns of R77 to R80. -/
def Obligations.WrittenWordsDecodeAsTheSpecWritesThem : Prop :=
  decode (.dlcp 0b0100001010#10) = .dlcpSend 0x0A#8 ∧ decode (.dlcp 0b1100000011#10) = .dlcpReset ∧
    decode (.rbf 0b01000001010#11) = .rbfPush 0x0A#8 ∧ decode (.rbf 0b00100000000#11) = .rbfPop ∧
    decode (.rbf 0b01100000011#11) = .rbfPushpop 0x03#8 ∧ decode (.rbf 0b11100001000#11) = .rbfReset ∧
    decode (.idx 0b01#2) = .idxAdv ∧ decode (.idx 0b11#2) = .idxReset ∧
    decode (.cmd 0b01111111#8) = .cmdUp 127#7 ∧ decode (.cmd 0b10000000#8) = .cmdDown 0#7

/-- The model's reading of raw bytes (log entry 5), from the fixed widths of R70: bytes of another length or with a 1 above the
format's width are refused by name, and all others decode. -/
def Obligations.RawBytesAreRefusedOnlyWhenTheyAreNoWord : Prop :=
  ∀ (f : Format) (bytes : List Byte),
    (bytes.length ≠ formatBytes f → decodeBytes f bytes = .error (.wrongLength f)) ∧
    (bytes.length = formatBytes f → 2 ^ f.width ≤ bitsOfBytes bytes → decodeBytes f bytes = .error (.tooWide f)) ∧
    (bytes.length = formatBytes f → bitsOfBytes bytes < 2 ^ f.width →
      ∃ w : PortWord, w.format = f ∧ w.bits = bitsOfBytes bytes ∧ decodeBytes f bytes = .ok (decode w))

/-- R84 (which the spec marks as derived from R76): `UP t` and `DOWN t` send the one byte of that direction and duration, and a
`t` they refuse is the duration of no byte of that direction. -/
def Obligations.PseudoInstructionsSendTheirDuration : Prop :=
  ∀ t : Nat,
    (t % 10 = 0 ∧ t ≤ 1270 →
      ∃ w b, assembleLine (.up t) = .ok [w] ∧ decode w = .dlcpSend b ∧ directionOf b = .up ∧ durationMs b = t) ∧
    (¬(t % 10 = 0 ∧ t ≤ 1270) →
      assembleLine (.up t) = .error (.badOperand (.up t)) ∧ ∀ b, directionOf b = .up → durationMs b ≠ t) ∧
    (t % 10 = 0 ∧ 10 ≤ t ∧ t ≤ 1280 →
      ∃ w b, assembleLine (.down t) = .ok [w] ∧ decode w = .dlcpSend b ∧ directionOf b = .down ∧ durationMs b = t) ∧
    (¬(t % 10 = 0 ∧ 10 ≤ t ∧ t ≤ 1280) →
      assembleLine (.down t) = .error (.badOperand (.down t)) ∧ ∀ b, directionOf b = .down → durationMs b ≠ t)

/-! ### The step -/

/-- The model's input schedule (log entries 3 and 4): a step performs the operation of the word the host drives next, on the
state with that word taken off the schedule; with nothing scheduled it is a cycle in which no byte is presented. -/
def Obligations.StepRunsTheDecodedOperation : Prop :=
  (∀ (s : State) (w : PortWord) (ws : List PortWord) (i : Instr),
    s.inputs = w :: ws → decode w = i → step s = exec i { s with inputs := ws }) ∧
  ∀ s : State, s.inputs = [] → step s = exec .dlcpNop s

/-- The model's input schedule (log entry 3): as many steps as words are the words' operations, one after another. -/
def Obligations.ScheduledWordsRunInOrder : Prop :=
  ∀ (s : State) (ws rest : List PortWord), s.inputs = ws ++ rest →
    stepTimes ws.length s = driveWords ws { s with inputs := rest }

/-! ### The stand-alone IDX (40_wrap_index.md) -/

/-- R102, R104, R105: the three operations of the IDX, with everything they leave unchanged, and the words that select them. -/
def Obligations.IdxCycleHoldsAdvancesOrResets : Prop :=
  (∀ s : State, IdxCanRun s →
    exec .idxHold s = .next { s with idxOut := ⟨s.idx, (s.idx + 1) % s.params.limit⟩ } ∧
    exec .idxAdv s =
      .next { s with idx := (s.idx + 1) % s.params.limit, idxOut := ⟨s.idx, (s.idx + 1) % s.params.limit⟩ } ∧
    exec .idxReset s = .next { s with idx := 0, idxOut := ⟨s.idx, (s.idx + 1) % s.params.limit⟩ }) ∧
  ∀ w : BitVec 2, decode (.idx w) = if w.getLsbD 1 then .idxReset else if w.getLsbD 0 then .idxAdv else .idxHold

/-- R107 (which the spec marks as derived from R101): k ADVs from value v give `(v + k) mod limit`, so LIMIT of them give v. -/
def Obligations.IdxAdvancesAddUpModuloTheLimit : Prop :=
  ∀ (s : State) (k : Nat), IdxCanRun s →
    ∃ t, driveWords (List.replicate k (.idx 0b01#2)) s = .next t ∧ t.idx = (s.idx + k) % s.params.limit ∧
      t = { s with idx := t.idx, idxOut := t.idxOut }

/-- R100, R103: in every cycle `cur` is the value, below the limit, and `nxt` is what an ADV of that cycle would write; a
look at them changes nothing. -/
def Obligations.IdxQueriesShowTheValueAndItsSuccessor : Prop :=
  ∀ (s : State) (i : Instr), IdxCanRun s → i = .idxHold ∨ i = .idxAdv ∨ i = .idxReset →
    ∃ t u h, exec i s = .next t ∧ exec .idxAdv s = .next u ∧ exec .idxHold s = .next h ∧
      t.idxOut.cur = s.idx ∧ t.idxOut.cur < s.params.limit ∧
      t.idxOut.nxt = (s.idx + 1) % s.params.limit ∧ t.idxOut.nxt = u.idx ∧ h.idx = s.idx ∧
      (s.idx = s.params.limit - 1 → t.idxOut.nxt = 0) ∧ (s.params.limit = 1 → t.idxOut.cur = 0 ∧ t.idxOut.nxt = 0)

/-- R106: an IDX with limit 0 is refused, by each of its operations and at launch, and inside an RBF the limit is at least 3. -/
def Obligations.IdxWithLimitZeroIsRefused : Prop :=
  (∀ (s : State) (i : Instr), i = .idxHold ∨ i = .idxAdv ∨ i = .idxReset → s.params.limit = 0 →
    exec i s = .refused .limitZero) ∧
  (∀ (p : Params) (ws : List PortWord), 2 ≤ p.c → 2 ≤ p.n → 1 ≤ p.k → p.limit = 0 →
    launch p ws = .refused .limitZero) ∧
  ∀ cap, 2 ≤ cap → 3 ≤ slots cap

/-! ### The stand-alone RBF (41_ring_buffer.md) -/

/-- R118: NOP, the words with `w[10:8] = 000`, changes no register or slot and shows no outcome. -/
def Obligations.RbfNopChangesNothing : Prop :=
  (∀ s : State, RbfCanRun s →
    exec .rbfNop s =
      .next { s with rbfOut :=
        { pushOk := false, pushFull := false, popValid := false, popData := 0x00#8
          full := rbfFull s.params.c s.rbf, empty := rbfEmpty s.rbf, count := rbfCount s.params.c s.rbf } }) ∧
  ∀ v : Byte, decode (.rbf (0b000#3 ++ v)) = .rbfNop

/-- R113, R114: a push on a full RBF is reported and writes nothing; any other writes the slot at `wr`, no other slot, and
advances `wr`. The ports `full`, `empty` and `count` show the pre-state (R121). The change of the flags is the spec's derivation
from R112 and R117. -/
def Obligations.RbfPushWritesItsSlotOrReportsFull : Prop :=
  ∀ (s : State) (v : Byte), RbfCanRun s →
    ∃ t, exec (.rbfPush v) s = .next t ∧ t = { s with rbf := t.rbf, rbfOut := t.rbfOut } ∧
      FlagPortsShow s.params.c s.rbf t.rbfOut ∧ t.rbfOut.popValid = false ∧ t.rbfOut.popData = 0x00#8 ∧
      ((s.rbf.wr + 1) % slots s.params.c = s.rbf.rd →
        t.rbf = s.rbf ∧ t.rbfOut.pushOk = false ∧ t.rbfOut.pushFull = true) ∧
      ((s.rbf.wr + 1) % slots s.params.c ≠ s.rbf.rd →
        t.rbfOut.pushOk = true ∧ t.rbfOut.pushFull = false ∧
        t.rbf.rd = s.rbf.rd ∧ t.rbf.wr = (s.rbf.wr + 1) % slots s.params.c ∧
        memRead t.rbf.mem s.rbf.wr = some v ∧ (∀ a, a ≠ s.rbf.wr → memRead t.rbf.mem a = memRead s.rbf.mem a) ∧
        rbfEmpty t.rbf = false ∧ rbfCount s.params.c t.rbf = rbfCount s.params.c s.rbf + 1)

/-- R115, R116: a pop of an empty RBF changes nothing; any other shows the byte at `rd` in the same cycle, advances `rd` and
changes no slot. The ports `full`, `empty` and `count` show the pre-state (R121). The change of the flags is the spec's derivation
from R111 and R117. -/
def Obligations.RbfPopReturnsTheOldestByteOrNone : Prop :=
  ∀ s : State, RbfCanRun s → RbfHeadHolds s →
    ∃ t, exec .rbfPop s = .next t ∧ t = { s with rbf := t.rbf, rbfOut := t.rbfOut } ∧
      FlagPortsShow s.params.c s.rbf t.rbfOut ∧
      t.rbfOut.pushOk = false ∧ t.rbfOut.pushFull = false ∧ t.rbf.mem = s.rbf.mem ∧
      (∀ a, memRead t.rbf.mem a = memRead s.rbf.mem a) ∧ t.rbf.wr = s.rbf.wr ∧
      (s.rbf.rd = s.rbf.wr → t.rbf = s.rbf ∧ t.rbfOut.popValid = false ∧ t.rbfOut.popData = 0x00#8) ∧
      (s.rbf.rd ≠ s.rbf.wr →
        t.rbfOut.popValid = true ∧ memRead s.rbf.mem s.rbf.rd = some t.rbfOut.popData ∧
        t.rbf.rd = (s.rbf.rd + 1) % slots s.params.c ∧
        rbfFull s.params.c t.rbf = false ∧ rbfCount s.params.c t.rbf + 1 = rbfCount s.params.c s.rbf)

/-- R119: a push and a pop of one cycle, the words with `w[10:8] = 011`, both on the pre-state: full, empty and neither, never
both full and empty. The ports `full`, `empty` and `count` show the pre-state (R121). -/
def Obligations.RbfPushpopActsOnThePreState : Prop :=
  (∀ v : Byte, decode (.rbf (0b011#3 ++ v)) = .rbfPushpop v) ∧
  ∀ (s : State) (v : Byte), RbfCanRun s → RbfHeadHolds s →
    ¬(rbfFull s.params.c s.rbf = true ∧ rbfEmpty s.rbf = true) ∧
    ∃ t, exec (.rbfPushpop v) s = .next t ∧ t = { s with rbf := t.rbf, rbfOut := t.rbfOut } ∧
      FlagPortsShow s.params.c s.rbf t.rbfOut ∧
      (rbfFull s.params.c s.rbf = true →
        t.rbfOut.pushFull = true ∧ t.rbfOut.pushOk = false ∧ t.rbfOut.popValid = true ∧
        memRead s.rbf.mem s.rbf.rd = some t.rbfOut.popData ∧
        t.rbf = { s.rbf with rd := (s.rbf.rd + 1) % slots s.params.c } ∧
        rbfCount s.params.c t.rbf = s.params.c - 1) ∧
      (rbfEmpty s.rbf = true →
        t.rbfOut.pushOk = true ∧ t.rbfOut.pushFull = false ∧ t.rbfOut.popValid = false ∧ t.rbfOut.popData = 0x00#8 ∧
        t.rbf.rd = s.rbf.rd ∧ t.rbf.wr = (s.rbf.wr + 1) % slots s.params.c ∧
        memRead t.rbf.mem s.rbf.wr = some v ∧ (∀ a, a ≠ s.rbf.wr → memRead t.rbf.mem a = memRead s.rbf.mem a) ∧
        rbfCount s.params.c t.rbf = 1) ∧
      (rbfFull s.params.c s.rbf = false → rbfEmpty s.rbf = false →
        t.rbfOut.pushOk = true ∧ t.rbfOut.pushFull = false ∧ t.rbfOut.popValid = true ∧
        memRead s.rbf.mem s.rbf.rd = some t.rbfOut.popData ∧
        t.rbf.rd = (s.rbf.rd + 1) % slots s.params.c ∧ t.rbf.wr = (s.rbf.wr + 1) % slots s.params.c ∧
        memRead t.rbf.mem s.rbf.wr = some v ∧ (∀ a, a ≠ s.rbf.wr → memRead t.rbf.mem a = memRead s.rbf.mem a) ∧
        rbfCount s.params.c t.rbf = rbfCount s.params.c s.rbf)

/-- R120: RESET sets both indices to 0, writes no slot, performs and reports no push or pop; every word with `w[10] = 1` is it. -/
def Obligations.RbfResetEmptiesWithoutWritingASlot : Prop :=
  (∀ s : State, RbfCanRun s →
    ∃ t, exec .rbfReset s = .next t ∧
      t = { s with
        rbf := { s.rbf with rd := 0, wr := 0 }
        rbfOut :=
          { pushOk := false, pushFull := false, popValid := false, popData := 0x00#8
            full := rbfFull s.params.c s.rbf, empty := rbfEmpty s.rbf, count := rbfCount s.params.c s.rbf } } ∧
      (∀ a, memRead t.rbf.mem a = memRead s.rbf.mem a) ∧
      rbfEmpty t.rbf = true ∧ rbfFull s.params.c t.rbf = false ∧ rbfCount s.params.c t.rbf = 0) ∧
  ∀ w : BitVec 11, w.getLsbD 10 = true → decode (.rbf w) = .rbfReset

/-- R25, R111, R112, R117, with the equivalences the spec derives: the flags computed from the indices say how many elements
there are. -/
def Obligations.FullAndEmptyAgreeWithTheCount : Prop :=
  ∀ (cap : Nat) (q : Rbf), 2 ≤ cap → q.rd < slots cap → q.wr < slots cap →
    (rbfFull cap q = true ↔ rbfCount cap q = cap) ∧ (rbfEmpty q = true ↔ rbfCount cap q = 0) ∧
      rbfCount cap q ≤ cap ∧ (q.rd + rbfCount cap q) % slots cap = q.wr

/-- R26: what the invariant of an RBF gives: at most C elements, never full and empty at once, and the live slots
`mem[(rd + j) mod L]`, oldest first, each holding a byte. -/
def Obligations.RingInvariantGivesTheLiveBytes : Prop :=
  ∀ (cap : Nat) (q : Rbf), 2 ≤ cap → RbfInv cap q →
    (liveBytes cap q).length = rbfCount cap q ∧ rbfCount cap q ≤ cap ∧
      ¬(rbfEmpty q = true ∧ rbfFull cap q = true) ∧
      ∀ j, j < rbfCount cap q → (liveBytes cap q)[j]? = memRead q.mem ((q.rd + j) % slots cap)

/-- R24: in both RBFs, only a PUSH advances `wr` and writes a slot, the one at `wr`; only a POP (or START) advances `rd`; a reset
is the only other writer of the indices. Over every operation of the table. -/
def Obligations.OnlyTheOwnersWriteTheRings : Prop :=
  ∀ (i : Instr) (s t : State), exec i s = .next t →
    (t.rbf.wr ≠ s.rbf.wr → i = .rbfReset ∨
      ((∃ v, i = .rbfPush v ∨ i = .rbfPushpop v) ∧ t.rbfOut.pushOk = true ∧
        t.rbf.wr = (s.rbf.wr + 1) % slots s.params.c)) ∧
    (t.rbf.rd ≠ s.rbf.rd → i = .rbfReset ∨
      ((i = .rbfPop ∨ ∃ v, i = .rbfPushpop v) ∧ t.rbfOut.popValid = true ∧
        t.rbf.rd = (s.rbf.rd + 1) % slots s.params.c)) ∧
    (∀ a, memRead t.rbf.mem a ≠ memRead s.rbf.mem a →
      a = s.rbf.wr ∧ t.rbfOut.pushOk = true ∧ ∃ v, i = .rbfPush v ∨ i = .rbfPushpop v) ∧
    (t.dlcp.queue.wr ≠ s.dlcp.queue.wr → i = .dlcpReset ∨
      ((∃ v, i = .dlcpSend v) ∧ t.dlcpOut.rxOk = true ∧ t.dlcp.queue.wr = (s.dlcp.queue.wr + 1) % slots s.params.n)) ∧
    (t.dlcp.queue.rd ≠ s.dlcp.queue.rd → i = .dlcpReset ∨
      (s.dlcp.st = .idle ∧ t.dlcp.st = .act ∧ t.dlcp.queue.rd = (s.dlcp.queue.rd + 1) % slots s.params.n)) ∧
    (∀ a, memRead t.dlcp.queue.mem a ≠ memRead s.dlcp.queue.mem a →
      a = s.dlcp.queue.wr ∧ t.dlcpOut.rxOk = true ∧ ∃ v, i = .dlcpSend v)

/-- R122 (which the spec marks as derived from R113): no operation of the table changes a live slot of either RBF. -/
def Obligations.NoOperationOverwritesALiveSlot : Prop :=
  ∀ (i : Instr) (s t : State), GoodState s → exec i s = .next t →
    (∀ j, j < rbfCount s.params.c s.rbf →
      memRead t.rbf.mem ((s.rbf.rd + j) % slots s.params.c) = memRead s.rbf.mem ((s.rbf.rd + j) % slots s.params.c)) ∧
    ∀ j, j < rbfCount s.params.n s.dlcp.queue →
      memRead t.dlcp.queue.mem ((s.dlcp.queue.rd + j) % slots s.params.n) =
        memRead s.dlcp.queue.mem ((s.dlcp.queue.rd + j) % slots s.params.n)

/-- R124 (which the spec marks as derived): PUSH, POP and RESET are the operations of a queue of at most C bytes; PUSHPOP is both
on the queue before the cycle (R119), and NOP is neither (R118). -/
def Obligations.RbfRefinesTheAbstractQueue : Prop :=
  ∀ (s : State) (v : Byte), GoodState s →
    (∃ t, exec (.rbfPush v) s = .next t ∧
      if (liveBytes s.params.c s.rbf).length = s.params.c then
        t.rbfOut.pushFull = true ∧ liveBytes s.params.c t.rbf = liveBytes s.params.c s.rbf
      else t.rbfOut.pushOk = true ∧ liveBytes s.params.c t.rbf = liveBytes s.params.c s.rbf ++ [v]) ∧
    (∃ t, exec .rbfPop s = .next t ∧
      match liveBytes s.params.c s.rbf with
      | [] => t.rbfOut.popValid = false ∧ liveBytes s.params.c t.rbf = []
      | b :: bs => t.rbfOut.popValid = true ∧ t.rbfOut.popData = b ∧ liveBytes s.params.c t.rbf = bs) ∧
    (∃ t, exec (.rbfPushpop v) s = .next t ∧
      match liveBytes s.params.c s.rbf with
      | [] => t.rbfOut.popValid = false ∧ t.rbfOut.pushOk = true ∧ liveBytes s.params.c t.rbf = [v]
      | b :: bs => t.rbfOut.popValid = true ∧ t.rbfOut.popData = b ∧
        if (liveBytes s.params.c s.rbf).length = s.params.c then
          t.rbfOut.pushFull = true ∧ liveBytes s.params.c t.rbf = bs
        else t.rbfOut.pushOk = true ∧ liveBytes s.params.c t.rbf = bs ++ [v]) ∧
    (∃ t, exec .rbfNop s = .next t ∧ t.rbfOut.pushOk = false ∧ t.rbfOut.pushFull = false ∧ t.rbfOut.popValid = false ∧
      liveBytes s.params.c t.rbf = liveBytes s.params.c s.rbf) ∧
    ∃ t, exec .rbfReset s = .next t ∧ liveBytes s.params.c t.rbf = []

/-- R123 (which the spec marks as derived): from any state with k elements, C - k pushes all succeed and make the RBF full; the
next push fails and changes nothing; after a pop a push succeeds. -/
def Obligations.RbfTakesExactlyItsFreeSlots : Prop :=
  ∀ (s : State) (vs : List Byte) (x y : Byte), GoodState s → vs.length + rbfCount s.params.c s.rbf = s.params.c →
    ∃ t u p r, driveWords (vs.map fun v => encode (.rbfPush v)) s = .next t ∧
      (rbfLog (vs.map fun v => encode (.rbfPush v)) s).accepted = vs ∧
      rbfFull s.params.c t.rbf = true ∧ rbfEmpty t.rbf = false ∧
      liveBytes s.params.c t.rbf = liveBytes s.params.c s.rbf ++ vs ∧
      exec (.rbfPush x) t = .next u ∧ u.rbfOut.pushFull = true ∧ u.rbf = t.rbf ∧
      exec .rbfPop u = .next p ∧ exec (.rbfPush y) p = .next r ∧ r.rbfOut.pushOk = true

/-- R58 (which the spec marks as derived), for every sequence of cycles of the RBF from every good state: what was there and what
was accepted is what was returned and what is still there, in order. -/
def Obligations.RbfRunsKeepEveryByteInOrder : Prop :=
  ∀ (s : State) (ws : List PortWord), GoodState s → (∀ w ∈ ws, activeRbfWord w = true) →
    ∃ t, driveWords ws s = .next t ∧
      liveBytes s.params.c s.rbf ++ (rbfLog ws s).accepted = (rbfLog ws s).taken ++ liveBytes s.params.c t.rbf

/-- R57, R58 (which the spec marks as derived), for EVERY interleaving of the atomic actions of an RBF's two agents. -/
def Obligations.RbfInterleavingsKeepEveryByteInOrder : Prop :=
  ∀ (cap : Nat) (q : Rbf) (acts : List RbfAction), 2 ≤ cap → RbfInv cap q →
    ∃ q' log, rbfInterleave cap acts q = .next (q', log) ∧ RbfInv cap q' ∧
      liveBytes cap q ++ log.accepted = log.taken ++ liveBytes cap q'

/-- R57 (which the spec marks as derived): a cycle of a stand-alone RBF and a cycle of the controller equal their two actions
performed one after the other, the producer first where the pre-state is not empty, the consumer first where it is not full. -/
def Obligations.ACycleIsOneOrderOfItsActions : Prop :=
  (∀ (s t : State) (v : Byte), exec (.rbfPushpop v) s = .next t →
    (rbfEmpty s.rbf = false →
      atomicPop s.params.c (atomicPush s.params.c s.rbf v).1 = .next (t.rbf, some t.rbfOut.popData)) ∧
    (rbfFull s.params.c s.rbf = false →
      ∃ q r, atomicPop s.params.c s.rbf = .next (q, r) ∧ (atomicPush s.params.c q v).1 = t.rbf)) ∧
  ∀ (s t : State) (v : Byte), exec (.dlcpSend v) s = .next t →
    (rbfEmpty s.dlcp.queue = false →
      consume s.params { s.dlcp with queue := (atomicPush s.params.n s.dlcp.queue v).1 } = .next t.dlcp) ∧
    (rbfFull s.params.n s.dlcp.queue = false →
      ∃ c, consume s.params s.dlcp = .next c ∧ { c with queue := (atomicPush s.params.n c.queue v).1 } = t.dlcp)

/-! ### The CODEC (42_codec.md) -/

/-- R133, for the stand-alone CODEC: an UP byte in every state, with everything it leaves unchanged; every byte below 128 is one. -/
def Obligations.CmdUpGivesItsDuration : Prop :=
  (∀ (m : BitVec 7) (s : State),
    exec (.cmdUp m) s =
      .next { s with codec := { b := 0b0#1 ++ m, dir := .up, ms := BitVec.ofNat 16 (10 * m.toNat) } } ∧
    u8 (0b0#1 ++ m) = m.toNat ∧ commandRaw (0b0#1 ++ m) = m.toNat) ∧
  ∀ b : Byte, u8 b < 128 → decode (.cmd b) = .cmdUp (b.extractLsb' 0 7)

/-- R134: a DOWN byte on the CODEC, in every state, with everything it leaves unchanged; no DOWN byte has duration 0. -/
def Obligations.CmdDownGivesItsDuration : Prop :=
  (∀ (m : BitVec 7) (s : State),
    exec (.cmdDown m) s =
      .next { s with codec := { b := 0b1#1 ++ m, dir := .down, ms := BitVec.ofNat 16 (10 * (256 - u8 (0b1#1 ++ m))) } } ∧
    u8 (0b1#1 ++ m) = 128 + m.toNat ∧ commandRaw (0b1#1 ++ m) = (u8 (0b1#1 ++ m) : Int) - 256 ∧
    BitVec.ofNat 16 (10 * (256 - u8 (0b1#1 ++ m))) ≠ 0#16) ∧
  ∀ b : Byte, 128 ≤ u8 b → decode (.cmd b) = .cmdDown (b.extractLsb' 0 7)

/-- R130, R132, R139: every byte is a command; its duration is ten times its magnitude, 1280 for 0x80 alone, in 16 bits of which
the upper five are 0. -/
def Obligations.EveryByteIsACommandWithItsDuration : Prop :=
  ∀ (b : Byte) (s : State),
    ∃ t, exec (decode (.cmd b)) s = .next t ∧ t = { s with codec := t.codec } ∧ t.codec.b = b ∧
      commandRaw b = b.toInt ∧ (t.codec.dir = .down ↔ commandRaw b < 0) ∧
      t.codec.ms.toNat = 10 * (if b.getLsbD 7 then 256 - b.toNat else b.toNat) ∧
      t.codec.ms.toNat = 10 * (commandRaw b).natAbs ∧
      t.codec.ms.extractLsb' 11 5 = 0#5 ∧ (t.codec.ms.toNat = 1280 ↔ b = 0x80#8)

/-- R136 (which the spec marks as derived): direction and duration determine the byte, and the durations are the multiples of 10
in 0..1280. -/
def Obligations.DirectionAndDurationDetermineTheCommand : Prop :=
  (∀ b c : Byte, directionOf b = directionOf c → durationMs b = durationMs c → b = c) ∧
    (∀ n : Nat, (∃ b, directionOf b = .up ∧ durationMs b = n) ↔ n % 10 = 0 ∧ n ≤ 1270) ∧
    ∀ n : Nat, (∃ b, directionOf b = .down ∧ durationMs b = n) ↔ n % 10 = 0 ∧ 10 ≤ n ∧ n ≤ 1280

/-- R137: the display text of every command. That two commands with the same text are equal follows, as R136 derives. -/
def Obligations.DisplayNamesTheCommand : Prop :=
  (∀ b : Byte, display b =
    (if 128 ≤ b.toNat then "down/" else "up/") ++
      toString (if 128 ≤ b.toNat then 10 * (256 - b.toNat) else 10 * b.toNat) ++ "ms") ∧
    ∀ b c : Byte, display b = display c → b = c

/-! ### The controller (43_dispatch.md) -/

/-- R150, R151, R163, R201: in every state of the consumer, a SEND is queued in the slot at `wr`, or, on a queue full before the
cycle, reported and dropped; the consumer does what it would do without it. -/
def Obligations.SendQueuesTheByteOrReportsFull : Prop :=
  ∀ (s : State) (v : Byte), DlcpCanRun s →
    ∃ t u, exec (.dlcpSend v) s = .next t ∧ exec .dlcpNop s = .next u ∧
      t = { s with dlcp := t.dlcp, dlcpOut := t.dlcpOut } ∧
      t.dlcp = { u.dlcp with queue := { u.dlcp.queue with mem := t.dlcp.queue.mem, wr := t.dlcp.queue.wr } } ∧
      ((s.dlcp.queue.wr + 1) % slots s.params.n = s.dlcp.queue.rd →
        t.dlcpOut.rxOk = false ∧ t.dlcpOut.rxFull = true ∧
        t.dlcp.queue.mem = s.dlcp.queue.mem ∧ t.dlcp.queue.wr = s.dlcp.queue.wr ∧
        (∀ a, memRead t.dlcp.queue.mem a = memRead s.dlcp.queue.mem a)) ∧
      ((s.dlcp.queue.wr + 1) % slots s.params.n ≠ s.dlcp.queue.rd →
        t.dlcpOut.rxOk = true ∧ t.dlcpOut.rxFull = false ∧
        t.dlcp.queue.wr = (s.dlcp.queue.wr + 1) % slots s.params.n ∧
        memRead t.dlcp.queue.mem s.dlcp.queue.wr = some v ∧
        ∀ a, a ≠ s.dlcp.queue.wr → memRead t.dlcp.queue.mem a = memRead s.dlcp.queue.mem a)

/-- R152: in a cycle without a byte the producer does nothing and reports nothing, whatever `rx_byte` carries. -/
def Obligations.NopLeavesTheProducerAtRest : Prop :=
  (∀ s : State, DlcpCanRun s →
    ∃ t, exec .dlcpNop s = .next t ∧ t = { s with dlcp := t.dlcp, dlcpOut := t.dlcpOut } ∧
      t.dlcpOut.rxOk = false ∧ t.dlcpOut.rxFull = false ∧
      t.dlcp.queue.mem = s.dlcp.queue.mem ∧ t.dlcp.queue.wr = s.dlcp.queue.wr ∧
      (∀ a, memRead t.dlcp.queue.mem a = memRead s.dlcp.queue.mem a) ∧
      consume s.params s.dlcp = .next t.dlcp) ∧
  ∀ v : Byte, decode (.dlcp (0b00#2 ++ v)) = .dlcpNop

/-- R153: START, in any cycle without reset that begins IDLE with a non-empty queue, whatever the producer does. -/
def Obligations.StartTakesTheOldestByteIntoFlight : Prop :=
  ∀ (i : Instr) (s : State) (b : Byte), DlcpActive i → DlcpInRange s → s.dlcp.st = .idle →
    s.dlcp.queue.rd ≠ s.dlcp.queue.wr → memRead s.dlcp.queue.mem s.dlcp.queue.rd = some b →
    ∃ t, exec i s = .next t ∧ t = { s with dlcp := t.dlcp, dlcpOut := t.dlcpOut } ∧ ProducerFrame s t ∧
      t.dlcp.queue.rd = (s.dlcp.queue.rd + 1) % slots s.params.n ∧ t.dlcp.st = .act ∧ t.dlcp.curRaw = b ∧
      t.dlcp.curDir = (if b.getLsbD 7 then .down else .up) ∧
      t.dlcp.msLeft.toNat = 10 * (if b.getLsbD 7 then 256 - b.toNat else b.toNat) ∧ t.dlcp.sub = 0 ∧
      (rbfFull s.params.n s.dlcp.queue = true → rbfFull s.params.n t.dlcp.queue = false) ∧
      (rbfEmpty t.dlcp.queue = true ↔ rbfCount s.params.n s.dlcp.queue = 1 ∧ t.dlcpOut.rxOk = false)

/-- R154: COUNT, in any cycle without reset that begins in ACT with `ms_left` not 0; `ms_left` never goes below 0. -/
def Obligations.CountElapsesOneClockCycle : Prop :=
  ∀ (i : Instr) (s : State), DlcpActive i → DlcpInRange s → s.dlcp.st = .act → s.dlcp.msLeft ≠ 0#11 →
    ∃ t, exec i s = .next t ∧ t = { s with dlcp := t.dlcp, dlcpOut := t.dlcpOut } ∧ ProducerFrame s t ∧
      t.dlcp.queue.rd = s.dlcp.queue.rd ∧ t.dlcp.st = .act ∧
      t.dlcp.curRaw = s.dlcp.curRaw ∧ t.dlcp.curDir = s.dlcp.curDir ∧
      (s.dlcp.sub = s.params.k - 1 → t.dlcp.sub = 0 ∧ t.dlcp.msLeft.toNat + 1 = s.dlcp.msLeft.toNat) ∧
      (s.dlcp.sub ≠ s.params.k - 1 → t.dlcp.sub = s.dlcp.sub + 1 ∧ t.dlcp.msLeft = s.dlcp.msLeft)

/-- R155: FINISH, in any cycle without reset that begins in ACT with `ms_left` 0: only `st` changes of the consumer's registers,
no byte is dequeued, and the outputs are at rest in the controller's next cycle. -/
def Obligations.FinishReturnsTheOutputsToRest : Prop :=
  ∀ (i j : Instr) (s : State), DlcpActive i → DlcpActive j ∨ j = .dlcpReset → DlcpInRange s → s.dlcp.st = .act →
    s.dlcp.msLeft = 0#11 →
    ∃ t, exec i s = .next t ∧ t = { s with dlcp := t.dlcp, dlcpOut := t.dlcpOut } ∧ ProducerFrame s t ∧
      t.dlcp.queue.rd = s.dlcp.queue.rd ∧ t.dlcp.st = .idle ∧ t.dlcp.curRaw = s.dlcp.curRaw ∧
      t.dlcp.curDir = s.dlcp.curDir ∧ t.dlcp.msLeft = s.dlcp.msLeft ∧ t.dlcp.sub = s.dlcp.sub ∧
      ∀ u, exec j t = .next u → u.dlcpOut.up = false ∧ u.dlcpOut.down = false ∧ u.dlcpOut.status = true

/-- R156: WAIT, in any cycle without reset that begins IDLE with an empty queue: no consumer register changes, and the poll's
outcome is BufferEmpty. -/
def Obligations.WaitChangesNoConsumerRegister : Prop :=
  ∀ (i : Instr) (s : State), DlcpActive i → DlcpInRange s → s.dlcp.st = .idle →
    s.dlcp.queue.rd = s.dlcp.queue.wr →
    consumerOutcome s.dlcp = some .bufferEmpty ∧
    ∃ t, exec i s = .next t ∧ t = { s with dlcp := t.dlcp, dlcpOut := t.dlcpOut } ∧ ProducerFrame s t ∧
      t.dlcp.queue.rd = s.dlcp.queue.rd ∧ t.dlcp.st = s.dlcp.st ∧ t.dlcp.curRaw = s.dlcp.curRaw ∧
      t.dlcp.curDir = s.dlcp.curDir ∧ t.dlcp.msLeft = s.dlcp.msLeft ∧ t.dlcp.sub = s.dlcp.sub

/-- R31, and R157, R164, R233, which the spec derives from it: in every cycle of the controller the outputs are those of the
registers before the cycle; `up` and `down` exclude each other, and `status` is low exactly when one of them is high. -/
def Obligations.ControllerOutputsShowThePreState : Prop :=
  ∀ (i : Instr) (s t : State), DlcpActive i ∨ i = .dlcpReset → exec i s = .next t →
    (t.dlcpOut.up = true ↔ s.dlcp.st = .act ∧ s.dlcp.curDir = .up) ∧
    (t.dlcpOut.down = true ↔ s.dlcp.st = .act ∧ s.dlcp.curDir = .down) ∧
    (t.dlcpOut.status = false ↔ s.dlcp.st = .act) ∧
    (t.dlcpOut.qEmpty = true ↔ s.dlcp.queue.rd = s.dlcp.queue.wr) ∧
    (t.dlcpOut.qFull = true ↔ (s.dlcp.queue.wr + 1) % slots s.params.n = s.dlcp.queue.rd) ∧
    t.dlcpOut.actRaw = s.dlcp.curRaw ∧ t.dlcpOut.actLeft = s.dlcp.msLeft ∧
    ¬(t.dlcpOut.up = true ∧ t.dlcpOut.down = true) ∧
    (t.dlcpOut.status = false ↔ t.dlcpOut.up = true ∨ t.dlcpOut.down = true)

/-- R200: the outcome of each request: Ok or QueueFull for a SEND, Ok or BufferFull for a push, BufferEmpty for a pop of an empty
RBF, and the codes 0 to 3. -/
def Obligations.EveryRequestGetsItsOutcomeCode : Prop :=
  (∀ (s t : State) (v : Byte), exec (.dlcpSend v) s = .next t →
    sendOutcome t.dlcpOut = some (if rbfFull s.params.n s.dlcp.queue then .queueFull else .ok)) ∧
  (∀ (s t : State) (v : Byte), exec (.rbfPush v) s = .next t ∨ exec (.rbfPushpop v) s = .next t →
    pushOutcome t.rbfOut = some (if rbfFull s.params.c s.rbf then .bufferFull else .ok)) ∧
  (∀ (s t : State) (v : Byte), exec .rbfPop s = .next t ∨ exec (.rbfPushpop v) s = .next t →
    (popOutcome t.rbfOut false true = some .bufferEmpty ↔ rbfEmpty s.rbf = true)) ∧
  [OutcomeCode.ok, .bufferFull, .queueFull, .bufferEmpty].map outcomeNumber = [0, 1, 2, 3]

/-- R165 (whose bound the spec marks as derived): a SEND reports QueueFull exactly when N commands are pending, in flight or not,
and never are more than N pending. -/
def Obligations.QueueFullMeansNCommandsPending : Prop :=
  ∀ (s : State) (v : Byte), GoodState s →
    ∃ t, exec (.dlcpSend v) s = .next t ∧
      (t.dlcpOut.rxFull = true ↔ (liveBytes s.params.n s.dlcp.queue).length = s.params.n) ∧
      (liveBytes s.params.n t.dlcp.queue).length ≤ s.params.n

/-- R241: a SEND whose cycle begins with a full queue is refused even if START, which takes the byte at the head of the queue,
frees a slot at the same edge; the freed slot is usable in the next cycle. -/
def Obligations.SlotFreedByStartIsUsableFromTheNextCycle : Prop :=
  ∀ (s : State) (v w : Byte), GoodState s → s.dlcp.st = .idle → rbfFull s.params.n s.dlcp.queue = true →
    ∃ t u, exec (.dlcpSend v) s = .next t ∧ t.dlcpOut.rxFull = true ∧ t.dlcp.st = .act ∧
      memRead s.dlcp.queue.mem s.dlcp.queue.rd = some t.dlcp.curRaw ∧ t.dlcp.queue.mem = s.dlcp.queue.mem ∧ rbfCount s.params.n t.dlcp.queue = s.params.n - 1 ∧
      exec (.dlcpSend w) t = .next u ∧ u.dlcpOut.rxOk = true ∧
      liveBytes s.params.n u.dlcp.queue = liveBytes s.params.n t.dlcp.queue ++ [w]

/-- R167 (which the spec marks as derived): a byte accepted by an idle controller with an empty queue starts at the end of the
next cycle, and its direction output is 1 in the one after. -/
def Obligations.ByteSentToAnIdleControllerStartsNextCycle : Prop :=
  ∀ (s : State) (v : Byte) (i j : Instr), GoodState s → Drained s.dlcp → DlcpActive i → DlcpActive j →
    ∃ t u x, exec (.dlcpSend v) s = .next t ∧ t.dlcpOut.rxOk = true ∧ t.dlcp.st = .idle ∧
      exec i t = .next u ∧ u.dlcpOut.status = true ∧ u.dlcp.st = .act ∧ u.dlcp.curRaw = v ∧
      exec j u = .next x ∧ (if v.getLsbD 7 then x.dlcpOut.down = true else x.dlcpOut.up = true)

/-- R160 (which the spec marks as derived), R244: with a command pending, the cycle after a FINISH is the one idle cycle, both
outputs low, and it starts the next command. -/
def Obligations.ExactlyOneIdleCycleBetweenActuations : Prop :=
  ∀ (s : State) (i j : Instr), GoodState s → DlcpActive i → DlcpActive j → s.dlcp.st = .act → s.dlcp.msLeft = 0#11 →
    s.dlcp.queue.rd ≠ s.dlcp.queue.wr →
    ∃ t u, exec i s = .next t ∧ t.dlcp.st = .idle ∧ t.dlcpOut.status = false ∧
      exec j t = .next u ∧ u.dlcpOut.up = false ∧ u.dlcpOut.down = false ∧ u.dlcpOut.status = true ∧
      u.dlcp.st = .act ∧ memRead s.dlcp.queue.mem s.dlcp.queue.rd = some u.dlcp.curRaw

/-- R159 (which the spec marks as derived): a command of duration d whose START is the cycle of `w` keeps ACT, its byte and its
direction for d * K cycles more, and the cycle after those ends it; R158 is the case d = 0. -/
def Obligations.AnActuationLastsItsDuration : Prop :=
  ∀ (s : State) (b : Byte) (w : PortWord) (ws : List PortWord), GoodState s → s.dlcp.st = .idle →
    s.dlcp.queue.rd ≠ s.dlcp.queue.wr → memRead s.dlcp.queue.mem s.dlcp.queue.rd = some b →
    (∀ x ∈ w :: ws, activeDlcpWord x = true) → ws.length ≤ durationMs b * s.params.k + 1 →
    ∃ t, driveWords (w :: ws) s = .next t ∧ t.dlcp.curRaw = b ∧ t.dlcp.curDir = directionOf b ∧
      (t.dlcp.st = .act ↔ ws.length ≤ durationMs b * s.params.k)

/-- R162: until its FINISH an actuation goes on in the same way whatever bytes arrive: any two input sequences of the same length,
neither with a reset, leave the same `st`, in-flight byte, direction and remaining time. -/
def Obligations.NoInputButResetTouchesAnActuation : Prop :=
  ∀ (s : State) (ws vs : List PortWord), GoodState s → s.dlcp.st = .act →
    (∀ x ∈ ws, activeDlcpWord x = true) → (∀ x ∈ vs, activeDlcpWord x = true) → ws.length = vs.length →
    ws.length ≤ remainingCycles s.params.k s.dlcp + 1 →
    ∃ t u, driveWords ws s = .next t ∧ driveWords vs s = .next u ∧
      t.dlcp.st = u.dlcp.st ∧ t.dlcp.curRaw = u.dlcp.curRaw ∧ t.dlcp.curDir = u.dlcp.curDir ∧
      t.dlcp.msLeft = u.dlcp.msLeft ∧ t.dlcp.sub = u.dlcp.sub ∧ t.dlcp.curDir = s.dlcp.curDir ∧
      (t.dlcp.st = .act ↔ ws.length ≤ remainingCycles s.params.k s.dlcp)

/-- R58, R161 (which the spec marks as derived), for every sequence of controller cycles without reset, from every good state:
the commands start in the order in which their bytes were accepted, none lost, none twice. -/
def Obligations.CommandsStartInTheOrderTheyWereAccepted : Prop :=
  ∀ (s : State) (ws : List PortWord), GoodState s → (∀ w ∈ ws, activeDlcpWord w = true) →
    ∃ t, driveWords ws s = .next t ∧
      liveBytes s.params.n s.dlcp.queue ++ (dlcpLog ws s).accepted =
        (dlcpLog ws s).taken ++ liveBytes s.params.n t.dlcp.queue

/-- R57, R58 (which the spec marks as derived), for EVERY interleaving of the atomic actions of the controller's two agents: no
schedule meets a fault, and where each action is enabled the bytes keep their order. -/
def Obligations.ControllerInterleavingsKeepEveryByteInOrder : Prop :=
  ∀ (p : Params) (d : Dlcp) (acts : List DlcpAction), 2 ≤ p.n → DlcpInv p d →
    (∀ f, dlcpInterleave p acts d ≠ .fault f) ∧
    ∀ d' log, dlcpInterleave p acts d = .next (d', log) →
      DlcpInv p d' ∧ liveBytes p.n d.queue ++ log.accepted = log.taken ++ liveBytes p.n d'.queue

/-- R171 (which the spec marks as derived): with p commands pending and no byte accepted, after `(p + 1) * (1280 * K + 2)` cycles
without reset the queue is empty and the controller IDLE. -/
def Obligations.QueueDrainsWithinItsBound : Prop :=
  ∀ (s : State) (ws : List PortWord), GoodState s → (∀ w ∈ ws, activeDlcpWord w = true) →
    (dlcpLog ws s).accepted = [] →
    (rbfCount s.params.n s.dlcp.queue + 1) * (1280 * s.params.k + 2) ≤ ws.length →
    ∃ t, driveWords ws s = .next t ∧ Drained t.dlcp

/-! ### Reset, launch and the whole machine (60_exceptions.md, 70_reset_and_hazards.md) -/

/-- R230, R236: a reset cycle of the controller, whatever byte it carries, and of the two stand-alone blocks: every register at its
reset value, no slot written, no outcome. -/
def Obligations.ResetCyclesSetTheResetValues : Prop :=
  (∀ s : State, DlcpInRange s →
    ∃ t, exec .dlcpReset s = .next t ∧
      t = { s with
        dlcp :=
          { queue := { s.dlcp.queue with rd := 0, wr := 0 }
            st := .idle, curRaw := 0x00#8, curDir := .up, msLeft := 0#11, sub := 0 }
        dlcpOut := t.dlcpOut } ∧
      (∀ a, memRead t.dlcp.queue.mem a = memRead s.dlcp.queue.mem a) ∧
      t.dlcpOut.rxOk = false ∧ t.dlcpOut.rxFull = false) ∧
  (∀ s : State, RbfCanRun s → ∃ t, exec .rbfReset s = .next t ∧ t.rbf = { s.rbf with rd := 0, wr := 0 }) ∧
  (∀ s : State, IdxCanRun s → ∃ t, exec .idxReset s = .next t ∧ t.idx = 0) ∧
  ∀ w : PortWord, w.isReset = true → decode w = .dlcpReset ∨ decode w = .rbfReset ∨ decode w = .idxReset

/-- R231, and R232, which the spec derives: a reset during an actuation aborts it and discards every pending command; the cycle
after it shows the outputs at rest and the queue empty. -/
def Obligations.ResetAbortsTheActuationAndDiscardsTheQueue : Prop :=
  ∀ (s : State) (i : Instr), DlcpInRange s → s.dlcp.st = .act → DlcpActive i →
    ∃ t u, exec .dlcpReset s = .next t ∧ (t.dlcpOut.up = true ∨ t.dlcpOut.down = true) ∧
      t.dlcp.st = .idle ∧ liveBytes s.params.n t.dlcp.queue = [] ∧
      exec i t = .next u ∧ u.dlcpOut.up = false ∧ u.dlcpOut.down = false ∧ u.dlcpOut.status = true ∧
      u.dlcpOut.qEmpty = true ∧ u.dlcp.st = .idle

/-- R40, R251: in the reset state, for every permitted choice of parameters, the registers hold the values of R40's table, no slot
holds a byte, and the invariant holds. -/
def Obligations.ResetStateHoldsTheTableValuesAndTheInvariant : Prop :=
  (∀ p : Params, p.wf = true → GoodState (State.resetWith p)) ∧ GoodState State.reset ∧
  ∀ p : Params,
    (State.resetWith p).idx = 0 ∧ (State.resetWith p).rbf.rd = 0 ∧ (State.resetWith p).rbf.wr = 0 ∧
    (State.resetWith p).dlcp.queue.rd = 0 ∧ (State.resetWith p).dlcp.queue.wr = 0 ∧
    (State.resetWith p).dlcp.st = .idle ∧ (State.resetWith p).dlcp.curRaw = 0x00#8 ∧
    (State.resetWith p).dlcp.curDir = .up ∧ (State.resetWith p).dlcp.msLeft = 0#11 ∧ (State.resetWith p).dlcp.sub = 0 ∧
    ∀ a, memRead (State.resetWith p).dlcp.queue.mem a = none ∧ memRead (State.resetWith p).rbf.mem a = none

/-- R22, R26, R29: every step, of whatever operation, from whatever good state, leaves the invariant true. -/
def Obligations.EveryStepKeepsTheInvariant : Prop :=
  ∀ s t : State, GoodState s → step s = .next t → GoodState t

/-- R17, R215: in a good state every operation, and so every step, has a next state: no fault and no refusal is reached. -/
def Obligations.NothingStopsInAGoodState : Prop :=
  ∀ s : State, GoodState s → (∀ i : Instr, ∃ t, exec i s = .next t) ∧ ∃ t, step s = .next t

/-- R17, R251, R252: every run, with permitted parameters and a reset as its first word, reaches its end state, a good one, with
its parameters unchanged and every word used. -/
def Obligations.EveryLaunchedRunReachesItsEnd : Prop :=
  ∀ (p : Params) (ws : List PortWord), p.wf = true → runWf ws = true →
    ∃ t, runWords p ws = .next t ∧ GoodState t ∧ t.params = p ∧ t.inputs = []

/-- R215, R234, R251, R252: the configurations and the lists of words that `launch` refuses, and no other. Two clauses rest on
the model's reading: which refusal comes first where several apply (log entry 8), and that a list of words which begins with a
reset is no run when its words are of several formats (log entry 12, DEDUCED from R252, whose words are those of one block). -/
def Obligations.LaunchRefusesExactlyWhatTheSpecRefuses : Prop :=
  ∀ (p : Params) (ws : List PortWord),
    (p.c < 2 ∨ p.n < 2 → launch p ws = .refused .capacityBelowTwo) ∧
    (2 ≤ p.c → 2 ≤ p.n → p.k < 1 → launch p ws = .refused .clkPerMsZero) ∧
    (2 ≤ p.c → 2 ≤ p.n → 1 ≤ p.k → p.limit < 1 → launch p ws = .refused .limitZero) ∧
    (p.wf = true → runWf ws = false → launch p ws = .refused .runWithoutReset) ∧
    (p.wf = true → runWf ws = true → ∃ s, launch p ws = .next s ∧ s.inputs = ws ∧ s.params = p ∧ s.dlcp.st = .idle)

/-- R22, R215: what stops each block, by name. The order of the checks is the model's (log entry 8). -/
def Obligations.StatesOutOfRangeStopByName : Prop :=
  (∀ (s : State) (i : Instr), i = .idxHold ∨ i = .idxAdv ∨ i = .idxReset → 1 ≤ s.params.limit →
    s.params.limit ≤ s.idx → exec i s = .fault .idxOutOfRange) ∧
  (∀ (s : State) (v : Byte) (i : Instr), i ∈ [Instr.rbfNop, .rbfPush v, .rbfPop, .rbfPushpop v, .rbfReset] →
    (s.params.c < 2 → exec i s = .refused .capacityBelowTwo) ∧
    (2 ≤ s.params.c → slots s.params.c ≤ s.rbf.rd ∨ slots s.params.c ≤ s.rbf.wr →
      exec i s = .fault .rbfIndexOutOfRange)) ∧
  (∀ (s : State) (v : Byte), RbfCanRun s → s.rbf.rd ≠ s.rbf.wr → memRead s.rbf.mem s.rbf.rd = none →
    exec .rbfPop s = .fault .slotBottom ∧ exec (.rbfPushpop v) s = .fault .slotBottom) ∧
  ∀ (s : State) (i : Instr), DlcpActive i ∨ i = .dlcpReset →
    (s.params.n < 2 → exec i s = .refused .capacityBelowTwo) ∧
    (2 ≤ s.params.n → s.params.k < 1 → exec i s = .refused .clkPerMsZero) ∧
    (2 ≤ s.params.n → 1 ≤ s.params.k →
      (slots s.params.n ≤ s.dlcp.queue.rd ∨ slots s.params.n ≤ s.dlcp.queue.wr →
        exec i s = .fault .rbfIndexOutOfRange) ∧
      (s.dlcp.queue.rd < slots s.params.n → s.dlcp.queue.wr < slots s.params.n →
        (s.dlcp.st = .act → 1280 < s.dlcp.msLeft.toNat → exec i s = .fault .msLeftOutOfRange) ∧
        ((s.dlcp.st = .act → s.dlcp.msLeft.toNat ≤ 1280) → s.params.k ≤ s.dlcp.sub →
          exec i s = .fault .subOutOfRange) ∧
        (s.dlcp.st = .idle → s.dlcp.sub < s.params.k → s.dlcp.queue.rd ≠ s.dlcp.queue.wr →
          memRead s.dlcp.queue.mem s.dlcp.queue.rd = none → i ≠ .dlcpReset → exec i s = .fault .slotBottom)))

/-- R29, R37: the direction belongs to the byte in flight and the remaining time is at most its duration; every step from every
state that has this keeps it. -/
def Obligations.InFlightRegistersBelongToTheirByte : Prop :=
  CommandMatches State.reset.dlcp ∧ ∀ s t : State, CommandMatches s.dlcp → step s = .next t → CommandMatches t.dlcp

/-- The model's choice of one machine with one instance of each block (log entry 1): an operation of one block changes nothing of
the others, no operation changes a parameter or the host's schedule. -/
def Obligations.EveryOperationTouchesItsOwnBlockOnly : Prop :=
  ∀ (i : Instr) (s t : State), exec i s = .next t →
    t.params = s.params ∧ t.inputs = s.inputs ∧
    ((encode i).format ≠ .dlcpCyc → t.dlcp = s.dlcp ∧ t.dlcpOut = s.dlcpOut) ∧
    ((encode i).format ≠ .rbfCyc → t.rbf = s.rbf ∧ t.rbfOut = s.rbfOut) ∧
    ((encode i).format ≠ .idxCyc → t.idx = s.idx ∧ t.idxOut = s.idxOut) ∧
    ((encode i).format ≠ .cmd → t.codec = s.codec)

/-- R9: the index width holds every index in `[0, m)` and is the least that does; in the reference RBF it is 7 bits. -/
def Obligations.FieldWidthIsTheLeastThatHoldsEveryIndex : Prop :=
  (∀ m v : Nat, v < m → v < 2 ^ fieldWidth m) ∧
    (∀ m w : Nat, 1 ≤ w → (∀ v, v < m → v < 2 ^ w) → fieldWidth m ≤ w) ∧ fieldWidth (slots 64) = 7
end

