-- ==== Sys2Proof/Laws/Flags.lean ====
section
/-!
SUPPORT. The index arithmetic without `mod`, for indices in range.
-/
namespace Sys2Proof.Machine

theorem slots_pos (cap : Nat) : 0 < slots cap := Nat.succ_pos cap

theorem wrapNext_lt {limit : Nat} (h : 0 < limit) (v : Nat) : wrapNext limit v < limit := Nat.mod_lt _ h

/-- The increment with its wrap, for an index in range. -/
theorem wrapNext_eq_ite {limit v : Nat} (h : v < limit) : wrapNext limit v = if v + 1 = limit then 0 else v + 1 := by
  unfold wrapNext
  split
  · simp [*]
  · exact Nat.mod_eq_of_lt (by omega)

/-- The count without `mod`, for indices in range. -/
theorem rbfCount_eq_ite {cap : Nat} {q : Rbf} (hr : q.rd < slots cap) (hw : q.wr < slots cap) :
    rbfCount cap q = if q.rd ≤ q.wr then q.wr - q.rd else q.wr + slots cap - q.rd := by
  unfold rbfCount
  split
  · rw [Int.emod_eq_of_lt (by omega) (by omega)]; omega
  · rw [← Int.add_emod_right, Int.emod_eq_of_lt (by omega) (by omega)]; omega

theorem rbfEmpty_eq_true {q : Rbf} : rbfEmpty q = true ↔ q.rd = q.wr := by simp [rbfEmpty]

theorem rbfFull_eq_true {cap : Nat} {q : Rbf} : rbfFull cap q = true ↔ wrapNext (slots cap) q.wr = q.rd := by simp [rbfFull]

/-- The flag ports of every cycle of an RBF show its pre-state, whatever is requested. -/
theorem rbfOutputs_flagPortsShow (cap : Nat) (q : Rbf) (rst push pop : Bool) (head : Byte) :
    FlagPortsShow cap q (rbfOutputs cap q rst push pop head) :=
  ⟨rbfFull_eq_true, rbfEmpty_eq_true, rfl⟩

/-- A live slot's number, without `mod`. -/
theorem slot_add_mod {limit a j : Nat} (ha : a < limit) (hj : j ≤ limit) :
    (a + j) % limit = if a + j < limit then a + j else a + j - limit := by
  split
  · exact Nat.mod_eq_of_lt ‹_›
  · rw [Nat.mod_eq_sub_mod (by omega)]; exact Nat.mod_eq_of_lt (by omega)

/-- The magnitude as an 8-bit unsigned computation, 0x80 without a special case (30_encoding.md R76). -/
theorem magnitude_eq_negation (b : Byte) : magnitude b = if b.getLsbD 7 then (~~~b + 1#8).toNat else b.toNat := by
  revert b
  decide

/-- The scale by shifts (42_codec.md R135). -/
theorem durationMs_eq_shifts (b : Byte) : durationMs b = (magnitude b <<< 3) + (magnitude b <<< 1) := by
  unfold durationMs
  simp only [Nat.shiftLeft_eq]
  omega

/-- The source's laws of the codec (42_codec.md R138). -/
theorem codec_laws (b : Byte) :
    (directionOf b = .down ↔ 128 ≤ b.toNat) ∧ (b.toNat ≤ 127 → durationMs b = b.toNat * 10) ∧
      (128 ≤ b.toNat → durationMs b = (256 - b.toNat) * 10) ∧ durationMs 0x80#8 = 1280 := by
  revert b
  decide

/-- `ms_left` and the CODEC's port hold the whole duration (00_scope.md R11, 42_codec.md R132). -/
theorem loadMs_codecMs_toNat (b : Byte) : (loadMs b).toNat = durationMs b ∧ (codecMs b).toNat = durationMs b := by
  revert b
  decide

end Sys2Proof.Machine
end

