-- ==== Sys2Proof/Laws/State.lean ====
section
/-!
SUPPORT. One lemma per field per update of the state and of the blocks' register groups, so that no later proof unfolds a
record update.
-/
namespace Sys2Proof.Machine

variable (s : State)

@[simp] theorem State.setIdx_params (value : Nat) (out : IdxOut) : (s.setIdx value out).params = s.params := rfl
@[simp] theorem State.setIdx_dlcp (value : Nat) (out : IdxOut) : (s.setIdx value out).dlcp = s.dlcp := rfl
@[simp] theorem State.setIdx_rbf (value : Nat) (out : IdxOut) : (s.setIdx value out).rbf = s.rbf := rfl
@[simp] theorem State.setIdx_idx (value : Nat) (out : IdxOut) : (s.setIdx value out).idx = value := rfl
@[simp] theorem State.setIdx_dlcpOut (value : Nat) (out : IdxOut) : (s.setIdx value out).dlcpOut = s.dlcpOut := rfl
@[simp] theorem State.setIdx_rbfOut (value : Nat) (out : IdxOut) : (s.setIdx value out).rbfOut = s.rbfOut := rfl
@[simp] theorem State.setIdx_idxOut (value : Nat) (out : IdxOut) : (s.setIdx value out).idxOut = out := rfl
@[simp] theorem State.setIdx_codec (value : Nat) (out : IdxOut) : (s.setIdx value out).codec = s.codec := rfl
@[simp] theorem State.setIdx_inputs (value : Nat) (out : IdxOut) : (s.setIdx value out).inputs = s.inputs := rfl

@[simp] theorem State.setRbf_params (q : Rbf) (out : RbfOut) : (s.setRbf q out).params = s.params := rfl
@[simp] theorem State.setRbf_dlcp (q : Rbf) (out : RbfOut) : (s.setRbf q out).dlcp = s.dlcp := rfl
@[simp] theorem State.setRbf_rbf (q : Rbf) (out : RbfOut) : (s.setRbf q out).rbf = q := rfl
@[simp] theorem State.setRbf_idx (q : Rbf) (out : RbfOut) : (s.setRbf q out).idx = s.idx := rfl
@[simp] theorem State.setRbf_dlcpOut (q : Rbf) (out : RbfOut) : (s.setRbf q out).dlcpOut = s.dlcpOut := rfl
@[simp] theorem State.setRbf_rbfOut (q : Rbf) (out : RbfOut) : (s.setRbf q out).rbfOut = out := rfl
@[simp] theorem State.setRbf_idxOut (q : Rbf) (out : RbfOut) : (s.setRbf q out).idxOut = s.idxOut := rfl
@[simp] theorem State.setRbf_codec (q : Rbf) (out : RbfOut) : (s.setRbf q out).codec = s.codec := rfl
@[simp] theorem State.setRbf_inputs (q : Rbf) (out : RbfOut) : (s.setRbf q out).inputs = s.inputs := rfl

@[simp] theorem State.setDlcp_params (d : Dlcp) (out : DlcpOut) : (s.setDlcp d out).params = s.params := rfl
@[simp] theorem State.setDlcp_dlcp (d : Dlcp) (out : DlcpOut) : (s.setDlcp d out).dlcp = d := rfl
@[simp] theorem State.setDlcp_rbf (d : Dlcp) (out : DlcpOut) : (s.setDlcp d out).rbf = s.rbf := rfl
@[simp] theorem State.setDlcp_idx (d : Dlcp) (out : DlcpOut) : (s.setDlcp d out).idx = s.idx := rfl
@[simp] theorem State.setDlcp_dlcpOut (d : Dlcp) (out : DlcpOut) : (s.setDlcp d out).dlcpOut = out := rfl
@[simp] theorem State.setDlcp_rbfOut (d : Dlcp) (out : DlcpOut) : (s.setDlcp d out).rbfOut = s.rbfOut := rfl
@[simp] theorem State.setDlcp_idxOut (d : Dlcp) (out : DlcpOut) : (s.setDlcp d out).idxOut = s.idxOut := rfl
@[simp] theorem State.setDlcp_codec (d : Dlcp) (out : DlcpOut) : (s.setDlcp d out).codec = s.codec := rfl
@[simp] theorem State.setDlcp_inputs (d : Dlcp) (out : DlcpOut) : (s.setDlcp d out).inputs = s.inputs := rfl

@[simp] theorem State.setCodec_params (ports : CodecPorts) : (s.setCodec ports).params = s.params := rfl
@[simp] theorem State.setCodec_dlcp (ports : CodecPorts) : (s.setCodec ports).dlcp = s.dlcp := rfl
@[simp] theorem State.setCodec_rbf (ports : CodecPorts) : (s.setCodec ports).rbf = s.rbf := rfl
@[simp] theorem State.setCodec_idx (ports : CodecPorts) : (s.setCodec ports).idx = s.idx := rfl
@[simp] theorem State.setCodec_dlcpOut (ports : CodecPorts) : (s.setCodec ports).dlcpOut = s.dlcpOut := rfl
@[simp] theorem State.setCodec_rbfOut (ports : CodecPorts) : (s.setCodec ports).rbfOut = s.rbfOut := rfl
@[simp] theorem State.setCodec_idxOut (ports : CodecPorts) : (s.setCodec ports).idxOut = s.idxOut := rfl
@[simp] theorem State.setCodec_codec (ports : CodecPorts) : (s.setCodec ports).codec = ports := rfl
@[simp] theorem State.setCodec_inputs (ports : CodecPorts) : (s.setCodec ports).inputs = s.inputs := rfl

@[simp] theorem State.setInputs_params (ws : List PortWord) : (s.setInputs ws).params = s.params := rfl
@[simp] theorem State.setInputs_dlcp (ws : List PortWord) : (s.setInputs ws).dlcp = s.dlcp := rfl
@[simp] theorem State.setInputs_rbf (ws : List PortWord) : (s.setInputs ws).rbf = s.rbf := rfl
@[simp] theorem State.setInputs_idx (ws : List PortWord) : (s.setInputs ws).idx = s.idx := rfl
@[simp] theorem State.setInputs_dlcpOut (ws : List PortWord) : (s.setInputs ws).dlcpOut = s.dlcpOut := rfl
@[simp] theorem State.setInputs_rbfOut (ws : List PortWord) : (s.setInputs ws).rbfOut = s.rbfOut := rfl
@[simp] theorem State.setInputs_idxOut (ws : List PortWord) : (s.setInputs ws).idxOut = s.idxOut := rfl
@[simp] theorem State.setInputs_codec (ws : List PortWord) : (s.setInputs ws).codec = s.codec := rfl
@[simp] theorem State.setInputs_inputs (ws : List PortWord) : (s.setInputs ws).inputs = ws := rfl

@[simp] theorem pushWrites_mem (cap : Nat) (q : Rbf) (v : Byte) : (pushWrites cap q v).mem = memWrite q.mem q.wr v := rfl
@[simp] theorem pushWrites_rd (cap : Nat) (q : Rbf) (v : Byte) : (pushWrites cap q v).rd = q.rd := rfl
@[simp] theorem pushWrites_wr (cap : Nat) (q : Rbf) (v : Byte) : (pushWrites cap q v).wr = wrapNext (slots cap) q.wr := rfl

@[simp] theorem popWrites_mem (cap : Nat) (q : Rbf) : (popWrites cap q).mem = q.mem := rfl
@[simp] theorem popWrites_rd (cap : Nat) (q : Rbf) : (popWrites cap q).rd = wrapNext (slots cap) q.rd := rfl
@[simp] theorem popWrites_wr (cap : Nat) (q : Rbf) : (popWrites cap q).wr = q.wr := rfl

@[simp] theorem rbfResetRegs_mem (q : Rbf) : (rbfResetRegs q).mem = q.mem := rfl
@[simp] theorem rbfResetRegs_rd (q : Rbf) : (rbfResetRegs q).rd = 0 := rfl
@[simp] theorem rbfResetRegs_wr (q : Rbf) : (rbfResetRegs q).wr = 0 := rfl

@[simp] theorem startWith_queue (n : Nat) (d : Dlcp) (b : Byte) : (startWith n d b).queue = popWrites n d.queue := rfl
@[simp] theorem startWith_st (n : Nat) (d : Dlcp) (b : Byte) : (startWith n d b).st = .act := rfl
@[simp] theorem startWith_curRaw (n : Nat) (d : Dlcp) (b : Byte) : (startWith n d b).curRaw = b := rfl
@[simp] theorem startWith_curDir (n : Nat) (d : Dlcp) (b : Byte) : (startWith n d b).curDir = directionOf b := rfl
@[simp] theorem startWith_msLeft (n : Nat) (d : Dlcp) (b : Byte) : (startWith n d b).msLeft = loadMs b := rfl
@[simp] theorem startWith_sub (n : Nat) (d : Dlcp) (b : Byte) : (startWith n d b).sub = 0 := rfl

@[simp] theorem finishCycle_queue (d : Dlcp) : (finishCycle d).queue = d.queue := rfl
@[simp] theorem finishCycle_st (d : Dlcp) : (finishCycle d).st = .idle := rfl
@[simp] theorem finishCycle_curRaw (d : Dlcp) : (finishCycle d).curRaw = d.curRaw := rfl
@[simp] theorem finishCycle_curDir (d : Dlcp) : (finishCycle d).curDir = d.curDir := rfl
@[simp] theorem finishCycle_msLeft (d : Dlcp) : (finishCycle d).msLeft = d.msLeft := rfl
@[simp] theorem finishCycle_sub (d : Dlcp) : (finishCycle d).sub = d.sub := rfl

@[simp] theorem dlcpResetRegs_queue (d : Dlcp) : (dlcpResetRegs d).queue = rbfResetRegs d.queue := rfl
@[simp] theorem dlcpResetRegs_st (d : Dlcp) : (dlcpResetRegs d).st = .idle := rfl
@[simp] theorem dlcpResetRegs_curRaw (d : Dlcp) : (dlcpResetRegs d).curRaw = 0x00#8 := rfl
@[simp] theorem dlcpResetRegs_curDir (d : Dlcp) : (dlcpResetRegs d).curDir = .up := rfl
@[simp] theorem dlcpResetRegs_msLeft (d : Dlcp) : (dlcpResetRegs d).msLeft = 0#11 := rfl
@[simp] theorem dlcpResetRegs_sub (d : Dlcp) : (dlcpResetRegs d).sub = 0 := rfl

@[simp] theorem produce_queue_mem (n : Nat) (d c : Dlcp) (v : Byte) : (produce n d v c).queue.mem = memWrite d.queue.mem d.queue.wr v := rfl
@[simp] theorem produce_queue_wr (n : Nat) (d c : Dlcp) (v : Byte) : (produce n d v c).queue.wr = wrapNext (slots n) d.queue.wr := rfl
@[simp] theorem produce_queue_rd (n : Nat) (d c : Dlcp) (v : Byte) : (produce n d v c).queue.rd = c.queue.rd := rfl
@[simp] theorem produce_st (n : Nat) (d c : Dlcp) (v : Byte) : (produce n d v c).st = c.st := rfl
@[simp] theorem produce_curRaw (n : Nat) (d c : Dlcp) (v : Byte) : (produce n d v c).curRaw = c.curRaw := rfl
@[simp] theorem produce_curDir (n : Nat) (d c : Dlcp) (v : Byte) : (produce n d v c).curDir = c.curDir := rfl
@[simp] theorem produce_msLeft (n : Nat) (d c : Dlcp) (v : Byte) : (produce n d v c).msLeft = c.msLeft := rfl
@[simp] theorem produce_sub (n : Nat) (d c : Dlcp) (v : Byte) : (produce n d v c).sub = c.sub := rfl

@[simp] theorem countCycle_queue (k : Nat) (d : Dlcp) : (countCycle k d).queue = d.queue := by
  unfold countCycle; split <;> rfl
@[simp] theorem countCycle_st (k : Nat) (d : Dlcp) : (countCycle k d).st = d.st := by
  unfold countCycle; split <;> rfl
@[simp] theorem countCycle_curRaw (k : Nat) (d : Dlcp) : (countCycle k d).curRaw = d.curRaw := by
  unfold countCycle; split <;> rfl
@[simp] theorem countCycle_curDir (k : Nat) (d : Dlcp) : (countCycle k d).curDir = d.curDir := by
  unfold countCycle; split <;> rfl

end Sys2Proof.Machine
end

