-- ==== Sys2Proof/Laws/Ops.lean ====
section
/-!
SUPPORT. One lemma per shared operation, saying once everything it can answer.
-/
namespace Sys2Proof.Machine

/-- A sequence answers a next state exactly when both of its parts do. -/
theorem andThen_eq_next {α β : Type} {r : Res α} {k : α → Res β} {b : β} :
    andThen r k = .next b ↔ ∃ a, r = .next a ∧ k a = .next b := by
  cases r <;> simp [andThen]

/-- A check in front: it must pass. -/
theorem guard_eq_next {β : Type} {r : Res Unit} {k : Unit → Res β} {b : β} :
    andThen r k = .next b ↔ r = .next () ∧ k () = .next b := by
  cases r <;> simp [andThen]

theorem next_eq_next {α : Type} {a b : α} : (Host.Outcome.next a : Res α) = .next b ↔ b = a := by
  rw [Host.Outcome.next.injEq]
  exact eq_comm

@[simp] theorem andThen_next {α β : Type} (a : α) (k : α → Res β) : andThen (.next a) k = k a := rfl

/-- What a slot read answers. -/
theorem memFetch_eq_next {m : Memory} {i : Nat} {v : Byte} : memFetch m i = .next v ↔ memRead m i = some v := by
  unfold memFetch
  cases memRead m i <;> simp

/-- When a cycle of the IDX runs. -/
theorem idxReady_eq_next {limit value : Nat} : idxReady limit value = .next () ↔ 1 ≤ limit ∧ value < limit := by
  unfold idxReady
  split
  · simp; omega
  · split <;> simp <;> omega

/-- When a cycle of an RBF runs. -/
theorem rbfReady_eq_next {cap : Nat} {q : Rbf} :
    rbfReady cap q = .next () ↔ 2 ≤ cap ∧ q.rd < slots cap ∧ q.wr < slots cap := by
  unfold rbfReady
  split
  · simp; omega
  · split <;> simp <;> omega

/-- When a cycle of the controller runs. -/
theorem dlcpReady_eq_next {p : Params} {d : Dlcp} :
    dlcpReady p d = .next () ↔
      2 ≤ p.n ∧ 1 ≤ p.k ∧ d.queue.rd < slots p.n ∧ d.queue.wr < slots p.n ∧
        (d.st = .act → d.msLeft.toNat ≤ 1280) ∧ d.sub < p.k := by
  unfold dlcpReady
  split
  · simp only [reduceCtorEq, false_iff]; omega
  · split
    · simp only [reduceCtorEq, false_iff]; omega
    · rw [guard_eq_next, rbfReady_eq_next]
      split
      · rename_i h
        simp only [reduceCtorEq, and_false, false_iff]
        intro hh
        have := hh.2.2.2.2.1 h.1
        omega
      · rename_i h
        have hms : d.st = .act → d.msLeft.toNat ≤ 1280 := fun ha => by
          by_contra hc
          exact h ⟨ha, by omega⟩
        split
        · simp only [and_true]
          exact ⟨fun h => ⟨h.1, by omega, h.2.1, h.2.2, hms, ‹_›⟩, fun h => ⟨h.1, h.2.2.1, h.2.2.2.1⟩⟩
        · simp only [reduceCtorEq, and_false, false_iff]
          exact fun h => absurd h.2.2.2.2.2 ‹_›

/-- Everything a cycle of the IDX can do. -/
theorem idxCycle_eq_next {rst adv : Bool} {s t : State} :
    idxCycle rst adv s = .next t ↔
      (1 ≤ s.params.limit ∧ s.idx < s.params.limit) ∧
        t = s.setIdx (if rst then 0 else if adv then wrapNext s.params.limit s.idx else s.idx)
          (idxOutputs s.params.limit s.idx) := by
  unfold idxCycle
  rw [guard_eq_next, idxReady_eq_next, next_eq_next]

/-- What a pop request answers. -/
theorem popByte_eq_next {q : Rbf} {rst pop : Bool} {b : Byte} :
    popByte q rst pop = .next b ↔
      (popValid q rst pop = true ∧ memRead q.mem q.rd = some b) ∨ (popValid q rst pop = false ∧ b = 0x00#8) := by
  unfold popByte
  cases popValid q rst pop
  · simp [-Host.Outcome.next.injEq, next_eq_next]
  · simp [memFetch_eq_next]

/-- Everything a cycle of the stand-alone RBF can do. -/
theorem rbfCycle_eq_next {rst push pop : Bool} {data : Byte} {s t : State} :
    rbfCycle rst push pop data s = .next t ↔
      (2 ≤ s.params.c ∧ s.rbf.rd < slots s.params.c ∧ s.rbf.wr < slots s.params.c) ∧
        ∃ head, popByte s.rbf rst pop = .next head ∧
          t = s.setRbf (rbfEdge s.params.c s.rbf rst push pop data) (rbfOutputs s.params.c s.rbf rst push pop head) := by
  unfold rbfCycle
  rw [guard_eq_next, rbfReady_eq_next, andThen_eq_next]
  simp only [next_eq_next]

/-- What the consumer can do: one of START, FINISH, COUNT, WAIT, each under its rule's condition. -/
theorem consume_eq_next {p : Params} {d c : Dlcp} :
    consume p d = .next c ↔
      (d.st = .idle ∧ rbfEmpty d.queue = false ∧ ∃ b, memRead d.queue.mem d.queue.rd = some b ∧ c = startWith p.n d b) ∨
      (d.st = .act ∧ d.msLeft = 0#11 ∧ c = finishCycle d) ∨
      (d.st = .act ∧ d.msLeft ≠ 0#11 ∧ c = countCycle p.k d) ∨
      (d.st = .idle ∧ rbfEmpty d.queue = true ∧ c = d) := by
  unfold consume consumerAction
  cases hst : d.st
  · cases he : rbfEmpty d.queue <;> simp [-Host.Outcome.next.injEq, andThen_eq_next, memFetch_eq_next, next_eq_next]
  · by_cases hm : d.msLeft = 0#11 <;> simp [-Host.Outcome.next.injEq, hm, next_eq_next]

/-- Everything the controller's clock edge can do. -/
theorem dlcpEdge_eq_next {p : Params} {d e : Dlcp} {rst rxValid : Bool} {rxByte : Byte} :
    dlcpEdge p d rst rxValid rxByte = .next e ↔
      (rst = true ∧ e = dlcpResetRegs d) ∨
      (rst = false ∧ ∃ c, consume p d = .next c ∧
        e = if pushOk p.n d.queue false rxValid then produce p.n d rxByte c else c) := by
  unfold dlcpEdge
  cases rst <;> simp [-Host.Outcome.next.injEq, andThen_eq_next, next_eq_next]

/-- Everything a cycle of the controller can do. -/
theorem dlcpCycle_eq_next {rst rxValid : Bool} {rxByte : Byte} {s t : State} :
    dlcpCycle rst rxValid rxByte s = .next t ↔
      dlcpReady s.params s.dlcp = .next () ∧
        ∃ d, dlcpEdge s.params s.dlcp rst rxValid rxByte = .next d ∧
          t = s.setDlcp d (dlcpOutputs s.params.n s.dlcp rst rxValid) := by
  unfold dlcpCycle
  rw [guard_eq_next, andThen_eq_next]
  simp only [next_eq_next]

/-- The CODEC always answers. -/
@[simp] theorem codecApply_eq (b : Byte) (s : State) : codecApply b s = .next (s.setCodec (codecPorts b)) := rfl

/-- What fetching can do: the next scheduled word, or the idle word. -/
theorem fetch_cases (s : State) :
    (s.inputs = [] ∧ fetch s = (idleWord, s)) ∨ ∃ w ws, s.inputs = w :: ws ∧ fetch s = (w, s.setInputs ws) := by
  unfold fetch
  split <;> simp_all

end Sys2Proof.Machine
end

