-- ==== Sys2Proof/Laws/PerInstr.lean ====
section
/-!
SUPPORT. A statement made per operation: the word the encoder writes is a word of the operation's own row of the opcode table.
-/
namespace Sys2Proof.Laws.EncodesItsRow

/-- Some row of spec/opcode_table.json carries the operation's mnemonic, and the encoder's word matches its mask. -/
def Statement (i : Instr) : Prop :=
  opcodeTable.any (fun r => decide (r.mnemonic = mnemonicOf i) && r.hits (encode i)) = true

theorem dlcpNop : Statement .dlcpNop := by
  unfold Statement
  decide

theorem dlcpSend (v : Byte) : Statement (.dlcpSend v) := by
  revert v
  unfold Statement
  decide

theorem dlcpReset : Statement .dlcpReset := by
  unfold Statement
  decide

theorem rbfNop : Statement .rbfNop := by
  unfold Statement
  decide

theorem rbfPush (v : Byte) : Statement (.rbfPush v) := by
  revert v
  unfold Statement
  decide

theorem rbfPop : Statement .rbfPop := by
  unfold Statement
  decide

theorem rbfPushpop (v : Byte) : Statement (.rbfPushpop v) := by
  revert v
  unfold Statement
  decide

theorem rbfReset : Statement .rbfReset := by
  unfold Statement
  decide

theorem idxHold : Statement .idxHold := by
  unfold Statement
  decide

theorem idxAdv : Statement .idxAdv := by
  unfold Statement
  decide

theorem idxReset : Statement .idxReset := by
  unfold Statement
  decide

theorem cmdUp (m : BitVec 7) : Statement (.cmdUp m) := by
  revert m
  unfold Statement
  decide

theorem cmdDown (m : BitVec 7) : Statement (.cmdDown m) := by
  revert m
  unfold Statement
  decide

end Sys2Proof.Laws.EncodesItsRow
end

