-- ==== Sys2Proof/Laws/Run.lean ====
section
/-!
SUPPORT. Runs step by step: the host's `run` on this machine, and a list of words cut in two.
-/
namespace Sys2Proof.Machine

/-- `Host.Core.run` on any machine, one step unfolded. -/
theorem host_run_succ (M : Host.Core) (k : Nat) (s : M.State) :
    M.run (k + 1) s =
      match M.step s with
      | .next t => M.run k t
      | .fault r => .fault r
      | .refused r => .refused r := rfl

/-- The host's run of this machine is `stepTimes`. -/
theorem core_run_eq_stepTimes (k : Nat) (s : State) : Sys2Proof.core.run k s = stepTimes k s := by
  induction k generalizing s with
  | zero => rfl
  | succ k ih =>
    refine (host_run_succ Sys2Proof.core k s).trans ?_
    generalize hr : Sys2Proof.core.step s = r
    rw [stepTimes, show step s = r from hr]
    cases r with
    | next t => exact ih t
    | fault r => rfl
    | refused r => rfl

theorem stepTimes_succ (k : Nat) (s : State) : stepTimes (k + 1) s = andThen (step s) (stepTimes k) := rfl

@[simp] theorem driveWords_nil (s : State) : driveWords [] s = .next s := rfl

theorem driveWords_cons (w : PortWord) (ws : List PortWord) (s : State) :
    driveWords (w :: ws) s = andThen (exec (decode w) s) (driveWords ws) := rfl

/-- The first words, then the others. -/
theorem driveWords_append (ws vs : List PortWord) (s : State) :
    driveWords (ws ++ vs) s = andThen (driveWords ws s) (driveWords vs) := by
  induction ws generalizing s with
  | nil => rfl
  | cons w ws ih =>
    simp only [List.cons_append, driveWords_cons]
    cases exec (decode w) s <;> simp [andThen, ih]

end Sys2Proof.Machine
end

