-- ==== Sys2Proof/Laws/Storage.lean ====
section
/-!
SUPPORT. The laws of slot storage: a read after a write, and that a write keeps the canonical form.
-/
namespace Sys2Proof.Machine

@[simp] theorem memRead_nil (i : Nat) : memRead [] i = none := rfl

/-- The slot just written holds the byte written. -/
@[simp] theorem memRead_memWrite_self (m : Memory) (i : Nat) (v : Byte) : memRead (memWrite m i v) i = some v := by
  induction m with
  | nil => simp [memWrite, memRead]
  | cons cell m ih =>
    obtain ⟨a, w⟩ := cell
    unfold memWrite
    split
    · simp [memRead]
    · split
      · simp [memRead]
      · simp [memRead, *]

/-- Every other slot is as it was. -/
theorem memRead_memWrite_of_ne (m : Memory) {i j : Nat} (v : Byte) (h : j ≠ i) :
    memRead (memWrite m i v) j = memRead m j := by
  induction m with
  | nil => simp [memWrite, memRead, h]
  | cons cell m ih =>
    obtain ⟨a, w⟩ := cell
    unfold memWrite
    split
    · simp [memRead, h]
    · split
      · subst_vars; simp [memRead, h]
      · simp [memRead, ih]

/-- The cells after a write: the one written, or one from before. -/
theorem mem_memWrite {m : Memory} {i : Nat} {v : Byte} {c : Host.Cell} (h : c ∈ memWrite m i v) : c = (i, v) ∨ c ∈ m := by
  induction m with
  | nil => simpa [memWrite] using h
  | cons cell m ih =>
    obtain ⟨a, w⟩ := cell
    unfold memWrite at h
    split at h
    · simpa using h
    · split at h
      · simp only [List.mem_cons] at h ⊢; tauto
      · simp only [List.mem_cons] at h ⊢
        rcases h with h | h
        · tauto
        · rcases ih h with h | h <;> tauto

/-- The canonical form as a statement about the slot numbers. -/
theorem memory_wf_iff (m : Memory) : Memory.wf m = true ↔ (m.map Prod.fst).Pairwise (· < ·) := by
  rw [← List.isChain_iff_pairwise]
  induction m with
  | nil => simp [Memory.wf]
  | cons c m ih =>
    cases m with
    | nil => simp [Memory.wf]
    | cons d m => simp only [Memory.wf, Bool.and_eq_true, decide_eq_true_eq, ih, List.map_cons, List.isChain_cons_cons]

/-- A write keeps the canonical form. -/
theorem memory_wf_memWrite {m : Memory} (h : Memory.wf m = true) (i : Nat) (v : Byte) :
    Memory.wf (memWrite m i v) = true := by
  rw [memory_wf_iff] at h ⊢
  induction m with
  | nil => simp [memWrite]
  | cons cell m ih =>
    obtain ⟨a, w⟩ := cell
    simp only [List.map_cons, List.pairwise_cons, List.mem_map, forall_exists_index, and_imp] at h
    obtain ⟨h1, h2⟩ := h
    unfold memWrite
    split
    · rename_i hlt
      simp only [List.map_cons, List.pairwise_cons, List.mem_cons, List.mem_map]
      refine ⟨?_, ?_, h2⟩
      · rintro x (rfl | ⟨c, hc, rfl⟩)
        · exact hlt
        · exact lt_trans hlt (h1 _ c hc rfl)
      · rintro x ⟨c, hc, rfl⟩
        exact h1 _ c hc rfl
    · split
      · rename_i heq
        subst heq
        simp only [List.map_cons, List.pairwise_cons, List.mem_map]
        exact ⟨fun x ⟨c, hc, hx⟩ => h1 x c hc hx, h2⟩
      · rename_i hge hne
        simp only [List.map_cons, List.pairwise_cons, List.mem_map]
        refine ⟨?_, ih h2⟩
        rintro x ⟨c, hc, rfl⟩
        rcases mem_memWrite hc with rfl | hc
        · simp only; omega
        · exact h1 _ c hc rfl

/-- The reset storage, with no slot listed, is in canonical form. -/
theorem memory_wf_reset (p : Params) :
    Memory.wf (State.resetWith p).dlcp.queue.mem = true ∧ Memory.wf (State.resetWith p).rbf.mem = true := ⟨rfl, rfl⟩

/-- A slot holds a byte exactly when it is listed. -/
theorem memRead_eq_none_iff (m : Memory) (i : Nat) : memRead m i = none ↔ ∀ c ∈ m, c.1 ≠ i := by
  induction m with
  | nil => simp
  | cons cell m ih =>
    obtain ⟨a, w⟩ := cell
    by_cases h : i = a
    · subst h; simp [memRead]
    · simp only [memRead, if_neg h, ih, List.mem_cons, forall_eq_or_imp]
      exact ⟨fun hm => ⟨fun e => h e.symm, hm⟩, fun hm => hm.2⟩

end Sys2Proof.Machine
end

