-- ==== Sys2Proof/Tests/Slice0.lean ====
section
/-!
SUPPORT. Tests of one step each, with expected values from spec/95_test_vectors.md (the vector is named in each comment) or
worked by hand from the cited rule; the smoke tests of the well-formedness checks; the decoding of words written out from
30_encoding.md; and, for every statement with hypotheses, a named theorem that shows concrete values meeting them.
-/
namespace Sys2Proof.Machine

/-! ### Helpers -/

/-- The next state, where there is one. -/
def nextOf (r : Res State) : Option State :=
  match r with
  | .next t => some t
  | .fault _ => none
  | .refused _ => none

/-- The fault, where there is one. -/
def faultOf (r : Res State) : Option Fault :=
  match r with
  | .next _ => none
  | .fault f => some f
  | .refused _ => none

/-- The refusal, where there is one. -/
def refusalOf (r : Res State) : Option Refusal :=
  match r with
  | .next _ => none
  | .fault _ => none
  | .refused f => some f

/-- The blocks of the test vectors: `C = 2`, so `L = 3`, with the `K` of the vector. -/
def small (k : Nat) : State := State.resetWith { c := 2, n := 2, k := k, limit := 3 }

/-- A stand-alone RBF of `C = 2` in a given state. -/
def rbfAt (rd wr : Nat) (mem : Memory) : State := { small 1 with rbf := { mem := mem, rd := rd, wr := wr } }

/-- A controller with `C = 2`, idle, its queue in a given state. -/
def idleAt (rd wr : Nat) (mem : Memory) : State :=
  { small 1 with dlcp := { (small 1).dlcp with queue := { mem := mem, rd := rd, wr := wr } } }

/-- A controller with `C = 2` and the prescaler `k`, an actuation of the byte `raw` in flight, its queue in a given state. -/
def actAt (k : Nat) (raw : Byte) (ms : BitVec 11) (sub rd wr : Nat) (mem : Memory) : State :=
  { small k with
    dlcp :=
      { queue := { mem := mem, rd := rd, wr := wr }
        st := .act, curRaw := raw, curDir := directionOf raw, msLeft := ms, sub := sub } }

/-- A stand-alone IDX with a given limit and value. -/
def idxAt (limit value : Nat) : State := { State.resetWith { c := 2, n := 2, k := 1, limit := limit } with idx := value }

/-- The storage `[11 22 33]`. -/
def threeCells : Memory := [(0, 0x11#8), (1, 0x22#8), (2, 0x33#8)]

/-! ### Well-formedness: each check refuses an ill-formed term -/

theorem test_params_wf_accepts_the_reference : Params.reference.wf = true := by decide
theorem test_params_wf_refuses_capacity_one : Params.wf { c := 1, n := 64, k := 1, limit := 65 } = false := by decide
theorem test_params_wf_refuses_queue_of_one : Params.wf { c := 64, n := 1, k := 1, limit := 65 } = false := by decide
theorem test_params_wf_refuses_no_clock : Params.wf { c := 64, n := 64, k := 0, limit := 65 } = false := by decide
theorem test_params_wf_refuses_limit_zero : Params.wf { c := 64, n := 64, k := 1, limit := 0 } = false := by decide
theorem test_fits_refuses_eleven_bits_for_dlcp : Format.fits .dlcpCyc 1024 = false := by decide
theorem test_fits_accepts_every_port_width :
    (Format.fits .dlcpCyc 1023 && Format.fits .rbfCyc 2047 && Format.fits .idxCyc 3 && Format.fits .cmd 255) = true := by decide
theorem test_asm_wf_refuses_bad_operands :
    ([.dlcpNop 0, .dlcpSend 256, .up 15, .up 1280, .down 0, .down 15, .down 1290, .rbfNop 0, .rbfPush 256,
      .rbfPushpop 256] : List AsmLine).map AsmLine.wf = List.replicate 10 false := by decide
theorem test_asm_wf_accepts_the_ends_of_each_range :
    ([.dlcpNop 1, .dlcpSend 255, .up 0, .up 1270, .down 10, .down 1280, .rbfNop 1, .rbfPush 0] : List AsmLine).map AsmLine.wf
      = List.replicate 8 true := by decide
theorem test_run_wf_refuses_no_reset_mixed_formats_and_nothing :
    [runWf [.dlcp 0x000#10], runWf [.dlcp 0x200#10, .rbf 0x000#11], runWf [.cmd 0x00#8], runWf []]
      = List.replicate 4 false := by decide
theorem test_run_wf_accepts_a_run : runWf [.dlcp 0x200#10, .dlcp 0x10A#10, .dlcp 0x000#10] = true := by decide

/-! ### Decoding: words written out bit by bit from 30_encoding.md R71 to R80, each constructor -/

/-- R77, with ignored bits set in the RESET word (V-DL-13). -/
theorem test_decode_dlcp_words :
    decode (.dlcp 0b0000000000#10) = .dlcpNop ∧ decode (.dlcp 0b0011111111#10) = .dlcpNop ∧
      decode (.dlcp 0b0110000000#10) = .dlcpSend 0x80#8 ∧ decode (.dlcp 0b1100000011#10) = .dlcpReset := by decide
/-- R78, with ignored bits set in the RESET word (V-RBF-11). -/
theorem test_decode_rbf_words :
    decode (.rbf 0b00000000000#11) = .rbfNop ∧ decode (.rbf 0b01000110011#11) = .rbfPush 0x33#8 ∧
      decode (.rbf 0b00111111111#11) = .rbfPop ∧ decode (.rbf 0b01110001000#11) = .rbfPushpop 0x88#8 ∧
      decode (.rbf 0b11100001000#11) = .rbfReset := by decide
/-- R79 (V-IDX-1, V-IDX-3, V-IDX-4, V-IDX-5). -/
theorem test_decode_idx_words :
    decode (.idx 0b00#2) = .idxHold ∧ decode (.idx 0b01#2) = .idxAdv ∧ decode (.idx 0b10#2) = .idxReset ∧
      decode (.idx 0b11#2) = .idxReset := by decide
/-- R80. -/
theorem test_decode_cmd_bytes :
    decode (.cmd 0b00001010#8) = .cmdUp 10#7 ∧ decode (.cmd 0b11110110#8) = .cmdDown 0b1110110#7 := by decide
/-- The bytes of a 10-bit word, bits 7..0 first (R13; log entry 5), and bytes that are no word. -/
theorem test_decode_bytes :
    decodeBytes .dlcpCyc [0x0A#8, 0x01#8] = .ok (.dlcpSend 0x0A#8) ∧
      decodeBytes .dlcpCyc [0x0A#8, 0x04#8] = .error (.tooWide .dlcpCyc) ∧
      decodeBytes .idxCyc [0x04#8] = .error (.tooWide .idxCyc) ∧
      decodeBytes .rbfCyc [0x0A#8] = .error (.wrongLength .rbfCyc) := by decide
/-- Bare table numbers (log entry 5). -/
theorem test_decode_table_words :
    decodeTableWord 16 0x000 = some .dlcpNop ∧ decodeTableWord 16 0x10A = some (.dlcpSend 0x0A#8) ∧
      decodeTableWord 16 0x200 = some .dlcpReset ∧ decodeTableWord 16 0x233 = some (.rbfPush 0x33#8) ∧
      decodeTableWord 16 0x355 = some (.rbfPushpop 0x55#8) ∧ decodeTableWord 16 0x400 = some .rbfReset ∧
      decodeTableWord 11 0x100 = some .rbfPop ∧ decodeTableWord 8 0x01 = some .idxAdv ∧
      decodeTableWord 8 0xFF = some (.cmdDown 127#7) ∧ decodeTableWord 16 0x800 = none ∧ decodeTableWord 24 0 = none := by
  decide
/-- R83, R84: the first words of programs P1 and P3, and `UP`, `DOWN` of P1. -/
theorem test_assemble_lines :
    assemble [.dlcpReset, .up 0, .down 10, .dlcpNop 2] =
        .ok [.dlcp 0b1000000000#10, .dlcp 0b0100000000#10, .dlcp 0b0111111111#10, .dlcp 0b0000000000#10,
          .dlcp 0b0000000000#10] ∧
      assemble [.rbfReset, .rbfPush 0x11, .rbfPop, .rbfPushpop 0x55] =
        .ok [.rbf 0b10000000000#11, .rbf 0b01000010001#11, .rbf 0b00100000000#11, .rbf 0b01101010101#11] ∧
      assemble [.dlcpReset, .up 15] = .error (.badOperand (.up 15)) := by decide

/-- R83: a program text with a comment, a blank line, both number forms and a repeat count; and a line that is none. -/
theorem test_assemble_text :
    assembleText .dlcpCyc "RESET ; start\nSEND 0x0A\n\nUP 10\nNOP 2" =
        .ok [.dlcp 0b1000000000#10, .dlcp 0b0100001010#10, .dlcp 0b0100000001#10, .dlcp 0b0000000000#10,
          .dlcp 0b0000000000#10] ∧
      assembleText .idxCyc "ADV\nPOP" = .error (.badLine 2) := by decide

/-! ### One step of each operation -/

/-- V-DL-1: a NOP of the reset controller is a WAIT. -/
theorem test_dlcp_nop_waits :
    (nextOf (exec .dlcpNop (small 1))).map (fun t => (t.dlcp, observation t.dlcpOut)) =
      some ((small 1).dlcp, 0b0000110#7) := by decide
/-- V-DL-4: START of 0x80, the longest command. -/
theorem test_dlcp_nop_starts_longest :
    (nextOf (exec .dlcpNop (idleAt 0 1 [(0, 0x80#8)]))).map (fun t => (t.dlcp, observation t.dlcpOut)) =
      some ((actAt 1 0x80#8 1280#11 0 1 1 [(0, 0x80#8)]).dlcp, 0b0000100#7) := by decide
/-- V-DL-7: COUNT at the prescaler's last value, `K = 4`. -/
theorem test_dlcp_count_wraps_prescaler :
    (nextOf (exec .dlcpNop (actAt 4 0xFF#8 2#11 3 1 1 [(0, 0xFF#8)]))).map (fun t => (t.dlcp, observation t.dlcpOut)) =
      some ((actAt 4 0xFF#8 1#11 0 1 1 [(0, 0xFF#8)]).dlcp, 0b0001010#7) := by decide
/-- V-DL-9: FINISH keeps everything but `st`. -/
theorem test_dlcp_finish :
    (nextOf (exec .dlcpNop (actAt 1 0xFF#8 0#11 0 1 1 [(0, 0xFF#8)]))).map (fun t => (t.dlcp, observation t.dlcpOut)) =
      some ({ (actAt 1 0xFF#8 0#11 0 1 1 [(0, 0xFF#8)]).dlcp with st := .idle }, 0b0001010#7) := by decide
/-- V-DL-12: the byte accepted in a START cycle is not the one started. -/
theorem test_dlcp_send_while_starting :
    (nextOf (exec (.dlcpSend 0x02#8) (idleAt 0 1 [(0, 0x01#8)]))).map (fun t => (t.dlcp, observation t.dlcpOut)) =
      some ((actAt 1 0x01#8 10#11 0 1 2 [(0, 0x01#8), (1, 0x02#8)]).dlcp, 0b1000100#7) := by decide
/-- V-DL-11: on a full queue the byte is refused although START frees a slot. -/
theorem test_dlcp_send_refused_on_full_queue :
    (nextOf (exec (.dlcpSend 0x03#8) (idleAt 0 2 [(0, 0x01#8), (1, 0x02#8)]))).map (fun t => (t.dlcp, observation t.dlcpOut)) =
      some ((actAt 1 0x01#8 10#11 0 1 2 [(0, 0x01#8), (1, 0x02#8)]).dlcp, 0b0100101#7) := by decide
/-- V-DL-16: a reset aborts an actuation; the outputs of its cycle still show it. -/
theorem test_dlcp_reset_aborts :
    (nextOf (exec .dlcpReset (actAt 1 0x02#8 5#11 0 1 1 [(0, 0x02#8)]))).map
        (fun t => (t.dlcp, observation t.dlcpOut, t.dlcpOut.actRaw, t.dlcpOut.actLeft)) =
      some ((idleAt 0 0 [(0, 0x02#8)]).dlcp, 0b0010010#7, 0x02#8, 5#11) := by decide
/-- V-DL-13: a byte presented in a reset cycle is ignored. -/
theorem test_dlcp_reset_ignores_a_byte :
    (nextOf (exec (decode (.dlcp 0b1100000011#10)) (idleAt 0 2 [(0, 0x01#8), (1, 0x02#8)]))).map
        (fun t => (t.dlcp, observation t.dlcpOut)) =
      some ((idleAt 0 0 [(0, 0x01#8), (1, 0x02#8)]).dlcp, 0b0000101#7) := by decide
/-- V-RBF-10: NOP of a full RBF. -/
theorem test_rbf_nop :
    (nextOf (exec .rbfNop (rbfAt 1 0 threeCells))).map (fun t => (t.rbf, t.rbfOut)) =
      some ((rbfAt 1 0 threeCells).rbf, ⟨false, false, false, 0x00#8, true, false, 2⟩) := by decide
/-- V-RBF-5: a push that wraps `wr` and fills the RBF. -/
theorem test_rbf_push_wraps :
    (nextOf (exec (.rbfPush 0x03#8) (rbfAt 1 2 [(0, 0x01#8), (1, 0x02#8)]))).map (fun t => (t.rbf, t.rbfOut)) =
      some ((rbfAt 1 0 [(0, 0x01#8), (1, 0x02#8), (2, 0x03#8)]).rbf, ⟨true, false, false, 0x00#8, false, false, 1⟩) := by decide
/-- V-RBF-4: a push on a full RBF writes nothing. -/
theorem test_rbf_push_full :
    (nextOf (exec (.rbfPush 0x03#8) (rbfAt 0 2 [(0, 0x01#8), (1, 0x02#8)]))).map (fun t => (t.rbf, t.rbfOut)) =
      some ((rbfAt 0 2 [(0, 0x01#8), (1, 0x02#8)]).rbf, ⟨false, true, false, 0x00#8, true, false, 2⟩) := by decide
/-- V-RBF-6: a pop that wraps `rd`. -/
theorem test_rbf_pop_wraps :
    (nextOf (exec .rbfPop (rbfAt 2 0 threeCells))).map (fun t => (t.rbf, t.rbfOut)) =
      some ((rbfAt 0 0 threeCells).rbf, ⟨false, false, true, 0x33#8, false, false, 1⟩) := by decide
/-- V-RBF-3: a pop of an empty RBF whose slot still holds a byte. -/
theorem test_rbf_pop_empty :
    (nextOf (exec .rbfPop (rbfAt 1 1 [(0, 0x0A#8)]))).map (fun t => (t.rbf, t.rbfOut)) =
      some ((rbfAt 1 1 [(0, 0x0A#8)]).rbf, ⟨false, false, false, 0x00#8, false, true, 0⟩) := by decide
/-- V-RBF-7: a push and a pop of a full RBF: the push fails. -/
theorem test_rbf_pushpop_full :
    (nextOf (exec (.rbfPushpop 0x03#8) (rbfAt 0 2 [(0, 0x01#8), (1, 0x02#8)]))).map (fun t => (t.rbf, t.rbfOut)) =
      some ((rbfAt 1 2 [(0, 0x01#8), (1, 0x02#8)]).rbf, ⟨false, true, true, 0x01#8, true, false, 2⟩) := by decide
/-- V-RBF-9: both succeed. -/
theorem test_rbf_pushpop_both :
    (nextOf (exec (.rbfPushpop 0x06#8) (rbfAt 0 1 [(0, 0x05#8)]))).map (fun t => (t.rbf, t.rbfOut)) =
      some ((rbfAt 1 2 [(0, 0x05#8), (1, 0x06#8)]).rbf, ⟨true, false, true, 0x05#8, false, false, 1⟩) := by decide
/-- V-RBF-11: RESET, with push and pop ignored. -/
theorem test_rbf_reset :
    (nextOf (exec (decode (.rbf 0b11100001000#11)) (rbfAt 1 0 threeCells))).map (fun t => (t.rbf, t.rbfOut)) =
      some ((rbfAt 0 0 threeCells).rbf, ⟨false, false, false, 0x00#8, true, false, 2⟩) := by decide
/-- V-IDX-3: HOLD at the last value. -/
theorem test_idx_hold : (nextOf (exec .idxHold (idxAt 65 64))).map (fun t => (t.idx, t.idxOut)) = some (64, ⟨64, 0⟩) := by decide
/-- V-IDX-2: ADV wraps. -/
theorem test_idx_adv_wraps : (nextOf (exec .idxAdv (idxAt 65 64))).map (fun t => (t.idx, t.idxOut)) = some (0, ⟨64, 0⟩) := by decide
/-- V-IDX-6: the only value of an IDX with limit 1. -/
theorem test_idx_adv_limit_one : (nextOf (exec .idxAdv (idxAt 1 0))).map (fun t => (t.idx, t.idxOut)) = some (0, ⟨0, 0⟩) := by decide
/-- V-IDX-4: RESET wins over `adv`. -/
theorem test_idx_reset :
    (nextOf (exec (decode (.idx 0b11#2)) (idxAt 65 40))).map (fun t => (t.idx, t.idxOut)) = some (0, ⟨40, 41⟩) := by decide
/-- V-CODEC-5. -/
theorem test_cmd_up_longest :
    (nextOf (exec (.cmdUp 0x7F#7) (small 1))).map State.codec = some ⟨0x7F#8, .up, 0x04F6#16⟩ := by decide
/-- V-CODEC-1: zero is a command, not a gap. -/
theorem test_cmd_up_zero : (nextOf (exec (.cmdUp 0#7) (small 1))).map State.codec = some ⟨0x00#8, .up, 0#16⟩ := by decide
/-- V-CODEC-6: the byte a signed 8-bit absolute value gets wrong. -/
theorem test_cmd_down_longest :
    (nextOf (exec (.cmdDown 0#7) (small 1))).map State.codec = some ⟨0x80#8, .down, 0x0500#16⟩ := by decide
/-- V-CODEC-9. -/
theorem test_cmd_down_hundred_ms :
    (nextOf (exec (.cmdDown 0x76#7) (small 1))).map State.codec = some ⟨0xF6#8, .down, 0x0064#16⟩ := by decide

/-! ### The step, other tables, and the stops -/

/-- The host's word is the very next step's, and the schedule is empty after it. -/
theorem test_step_runs_the_placed_word :
    (nextOf (step (State.reset.withFetchWord 16 0x10A))).map (fun t => (t.dlcp.queue, t.inputs)) =
      some (⟨[(0, 0x0A#8)], 0, 1⟩, []) := by decide
/-- V-DL-1: with nothing scheduled no byte is presented. -/
theorem test_step_idles : (nextOf (step State.reset)).map (fun t => (t.dlcp, observation t.dlcpOut)) =
    some (State.reset.dlcp, 0b0000110#7) := by decide
/-- 41_ring_buffer.md R117's example: `count = (3 - 60) mod 65 = 8`. -/
theorem test_count_wraps : rbfCount 64 ⟨[], 60, 3⟩ = 8 := by decide
/-- V-CODEC-7, column "raw": -127; and 00_scope.md R14 for 0x80. -/
theorem test_command_raw : commandRaw 0x81#8 = -127 ∧ commandRaw 0x80#8 = -128 ∧ commandRaw 0x64#8 = 100 := by decide
/-- V-CODEC-6 and V-CODEC-1, column "display". -/
theorem test_display : display 0x80#8 = "down/1280ms" ∧ display 0x00#8 = "up/0ms" := by decide
/-- 00_scope.md R9: `IW = 7` in the reference RBF; 10_state.md R29: `PW = 1` with `K = 1`. -/
theorem test_field_widths : fieldWidth (slots 64) = 7 ∧ fieldWidth 1 = 1 ∧ fieldWidth 2 = 1 ∧ fieldWidth 3 = 2 := by decide
/-- 20_memory.md R57 and the interleaving of S-E2E-3: the accepted bytes leave in order, the refused one never. -/
theorem test_interleaving :
    (match rbfInterleave 2 [.push 0xA1#8, .push 0xA2#8, .pop, .push 0xA3#8, .push 0xA4#8, .pop, .pop, .pop] ⟨[], 0, 0⟩ with
      | .next (q, log) => some (q.rd, q.wr, log)
      | .fault _ => none
      | .refused _ => none) =
      some (0, 0, ⟨[0xA1#8, 0xA2#8, 0xA3#8], [0xA1#8, 0xA2#8, 0xA3#8]⟩) := by decide
/-- Program P4: the observation words of its run and of the first cycle after its second reset. -/
theorem test_program_observations :
    observations [.dlcp 0x102#10, .dlcp 0#10, .dlcp 0#10, .dlcp 0#10, .dlcp 0x200#10, .dlcp 0#10] (small 1) =
      [0b1000110#7, 0b0000100#7, 0b0010010#7, 0b0010010#7, 0b0010010#7, 0b0000110#7] := by decide
/-- 60_exceptions.md R215: a slot that holds no byte is not popped. -/
theorem test_pop_of_bottom_faults : faultOf (exec .rbfPop (rbfAt 0 1 [])) = some .slotBottom := by decide
/-- V-IDX-8. -/
theorem test_limit_zero_refused : refusalOf (exec .idxAdv (idxAt 0 0)) = some .limitZero := by decide

/-! ### Witnesses: for each statement of Certificates/Slice0/Obligations.lean that has hypotheses, values that meet them

One theorem per statement, or per clause; boundary values where a clause has a range. -/

/-- The cells `[01 02]`. -/
def twoCells : Memory := [(0, 0x01#8), (1, 0x02#8)]

/-- The words of `n` cycles without a byte. -/
def idleWords (n : Nat) : List PortWord := List.replicate n idleWord

theorem witness_RawBytes_lengths :
    [0x0A#8].length ≠ formatBytes .dlcpCyc ∧ [0x0A#8, 0x01#8, 0x00#8].length ≠ formatBytes .dlcpCyc := by decide
theorem witness_RawBytes_too_wide :
    [0x00#8, 0x04#8].length = formatBytes .dlcpCyc ∧ 2 ^ Format.width .dlcpCyc ≤ bitsOfBytes [0x00#8, 0x04#8] := by decide
theorem witness_RawBytes_fits :
    [0xFF#8, 0x03#8].length = formatBytes .dlcpCyc ∧ bitsOfBytes [0xFF#8, 0x03#8] < 2 ^ Format.width .dlcpCyc := by decide
theorem witness_PseudoInstructions_up : (0 % 10 = 0 ∧ 0 ≤ 1270) ∧ (1270 % 10 = 0 ∧ 1270 ≤ 1270) := by decide
theorem witness_PseudoInstructions_up_refused : ¬(1265 % 10 = 0 ∧ 1265 ≤ 1270) ∧ ¬(1280 % 10 = 0 ∧ 1280 ≤ 1270) := by decide
theorem witness_PseudoInstructions_down :
    (10 % 10 = 0 ∧ 10 ≤ 10 ∧ 10 ≤ 1280) ∧ (1280 % 10 = 0 ∧ 10 ≤ 1280 ∧ 1280 ≤ 1280) := by decide
theorem witness_PseudoInstructions_down_refused :
    ¬(0 % 10 = 0 ∧ 10 ≤ 0 ∧ 0 ≤ 1280) ∧ ¬(1290 % 10 = 0 ∧ 10 ≤ 1290 ∧ 1290 ≤ 1280) := by decide
theorem witness_StepRuns_scheduled :
    (State.reset.withFetchWord 16 0x10A).inputs = .dlcp 0x10A#10 :: [] ∧ decode (.dlcp 0x10A#10) = .dlcpSend 0x0A#8 := by decide
theorem witness_StepRuns_idle : State.reset.inputs = [] := by decide
theorem witness_ScheduledWords :
    (State.reset.setInputs [.dlcp 0x200#10, .idx 0b01#2]).inputs = [.dlcp 0x200#10] ++ [.idx 0b01#2] := by decide
theorem witness_IdxCycle : IdxCanRun (idxAt 65 0) ∧ IdxCanRun (idxAt 65 64) := by decide
theorem witness_IdxAdvances : IdxCanRun (idxAt 3 2) := by decide
theorem witness_IdxQueries_at_the_last_value :
    (Instr.idxAdv = .idxHold ∨ Instr.idxAdv = .idxAdv ∨ Instr.idxAdv = .idxReset) ∧ IdxCanRun (idxAt 65 64) ∧
      (idxAt 65 64).idx = (idxAt 65 64).params.limit - 1 := by decide
theorem witness_IdxQueries_limit_one :
    (Instr.idxAdv = .idxHold ∨ Instr.idxAdv = .idxAdv ∨ Instr.idxAdv = .idxReset) ∧ IdxCanRun (idxAt 1 0) ∧ (idxAt 1 0).params.limit = 1 := by decide
theorem witness_IdxWithLimitZero :
    (Instr.idxAdv = .idxHold ∨ Instr.idxAdv = .idxAdv ∨ Instr.idxAdv = .idxReset) ∧ (idxAt 0 0).params.limit = 0 ∧
      2 ≤ (idxAt 0 0).params.c ∧ 2 ≤ (idxAt 0 0).params.n ∧ 1 ≤ (idxAt 0 0).params.k := by decide
theorem witness_RbfNop : RbfCanRun (rbfAt 2 1 threeCells) := by decide
theorem witness_RbfPush_full :
    RbfCanRun (rbfAt 0 2 twoCells) ∧
      ((rbfAt 0 2 twoCells).rbf.wr + 1) % slots (rbfAt 0 2 twoCells).params.c = (rbfAt 0 2 twoCells).rbf.rd := by decide
theorem witness_RbfPush_free :
    RbfCanRun (rbfAt 1 2 twoCells) ∧
      ((rbfAt 1 2 twoCells).rbf.wr + 1) % slots (rbfAt 1 2 twoCells).params.c ≠ (rbfAt 1 2 twoCells).rbf.rd := by decide
theorem witness_RbfPop_empty :
    RbfCanRun (rbfAt 0 0 []) ∧ RbfHeadHolds (rbfAt 0 0 []) ∧ (rbfAt 0 0 []).rbf.rd = (rbfAt 0 0 []).rbf.wr := by decide
theorem witness_RbfPop_some :
    RbfCanRun (rbfAt 2 0 threeCells) ∧ RbfHeadHolds (rbfAt 2 0 threeCells) ∧
      (rbfAt 2 0 threeCells).rbf.rd ≠ (rbfAt 2 0 threeCells).rbf.wr := by decide
theorem witness_RbfPushpop_full :
    RbfCanRun (rbfAt 0 2 twoCells) ∧ RbfHeadHolds (rbfAt 0 2 twoCells) ∧
      rbfFull (rbfAt 0 2 twoCells).params.c (rbfAt 0 2 twoCells).rbf = true := by decide
theorem witness_RbfPushpop_empty :
    RbfCanRun (rbfAt 1 1 []) ∧ RbfHeadHolds (rbfAt 1 1 []) ∧ rbfEmpty (rbfAt 1 1 []).rbf = true := by decide
theorem witness_RbfPushpop_neither :
    RbfCanRun (rbfAt 1 2 twoCells) ∧ RbfHeadHolds (rbfAt 1 2 twoCells) ∧
      rbfFull (rbfAt 1 2 twoCells).params.c (rbfAt 1 2 twoCells).rbf = false ∧
      rbfEmpty (rbfAt 1 2 twoCells).rbf = false := by decide
theorem witness_RbfReset : RbfCanRun (rbfAt 1 0 threeCells) ∧ (0b11100001000#11 : BitVec 11).getLsbD 10 = true := by decide
theorem witness_FullAndEmptyAgree :
    2 ≤ 2 ∧ (rbfAt 0 2 twoCells).rbf.rd < slots 2 ∧ (rbfAt 0 2 twoCells).rbf.wr < slots 2 := by decide
theorem witness_RingInvariant : RbfInv 2 (rbfAt 2 1 threeCells).rbf ∧ 1 < rbfCount 2 (rbfAt 2 1 threeCells).rbf := by decide
theorem witness_OnlyTheOwners_push :
    ∃ t, exec (.rbfPush 0x03#8) (rbfAt 1 2 twoCells) = .next t ∧ t.rbf.wr ≠ (rbfAt 1 2 twoCells).rbf.wr ∧
      memRead t.rbf.mem 2 ≠ memRead (rbfAt 1 2 twoCells).rbf.mem 2 := ⟨_, rfl, by decide⟩
theorem witness_OnlyTheOwners_pop :
    ∃ t, exec .rbfPop (rbfAt 2 0 threeCells) = .next t ∧ t.rbf.rd ≠ (rbfAt 2 0 threeCells).rbf.rd := ⟨_, rfl, by decide⟩
theorem witness_OnlyTheOwners_send_and_start :
    ∃ t, exec (.dlcpSend 0x02#8) (idleAt 0 1 [(0, 0x01#8)]) = .next t ∧ t.dlcp.queue.wr ≠ 1 ∧ t.dlcp.queue.rd ≠ 0 ∧
      memRead t.dlcp.queue.mem 1 ≠ memRead (idleAt 0 1 [(0, 0x01#8)]).dlcp.queue.mem 1 := ⟨_, rfl, by decide⟩
theorem witness_OnlyTheOwners_reset :
    ∃ t, exec .dlcpReset (idleAt 1 2 twoCells) = .next t ∧ t.dlcp.queue.wr ≠ 2 ∧ t.dlcp.queue.rd ≠ 1 := ⟨_, rfl, by decide⟩
theorem witness_NoOperationOverwrites_rbf :
    GoodState (rbfAt 1 2 twoCells) ∧ (∃ t, exec (.rbfPush 0x03#8) (rbfAt 1 2 twoCells) = .next t) ∧
      0 < rbfCount (rbfAt 1 2 twoCells).params.c (rbfAt 1 2 twoCells).rbf := ⟨by decide, ⟨_, rfl⟩, by decide⟩
theorem witness_NoOperationOverwrites_queue :
    GoodState (idleAt 1 2 twoCells) ∧ (∃ t, exec (.dlcpSend 0x03#8) (idleAt 1 2 twoCells) = .next t) ∧
      0 < rbfCount (idleAt 1 2 twoCells).params.n (idleAt 1 2 twoCells).dlcp.queue := ⟨by decide, ⟨_, rfl⟩, by decide⟩
theorem witness_RbfRefines_full :
    GoodState (rbfAt 0 2 twoCells) ∧
      (liveBytes (rbfAt 0 2 twoCells).params.c (rbfAt 0 2 twoCells).rbf).length = (rbfAt 0 2 twoCells).params.c := by decide
theorem witness_RbfRefines_empty :
    GoodState (rbfAt 1 1 twoCells) ∧ liveBytes (rbfAt 1 1 twoCells).params.c (rbfAt 1 1 twoCells).rbf = [] := by decide
theorem witness_RbfRefines_neither :
    GoodState (rbfAt 1 2 twoCells) ∧ liveBytes (rbfAt 1 2 twoCells).params.c (rbfAt 1 2 twoCells).rbf = 0x02#8 :: [] ∧
      (liveBytes (rbfAt 1 2 twoCells).params.c (rbfAt 1 2 twoCells).rbf).length ≠ (rbfAt 1 2 twoCells).params.c := by decide
theorem witness_RbfTakes_from_empty :
    GoodState (rbfAt 2 2 threeCells) ∧
      [0x44#8, 0x55#8].length + rbfCount (rbfAt 2 2 threeCells).params.c (rbfAt 2 2 threeCells).rbf =
        (rbfAt 2 2 threeCells).params.c := by decide
theorem witness_RbfTakes_from_full :
    GoodState (rbfAt 0 2 twoCells) ∧
      ([] : List Byte).length + rbfCount (rbfAt 0 2 twoCells).params.c (rbfAt 0 2 twoCells).rbf =
        (rbfAt 0 2 twoCells).params.c := by decide
theorem witness_RbfRuns :
    GoodState (rbfAt 1 2 twoCells) ∧ ∀ w ∈ [PortWord.rbf 0x355#11, .rbf 0x100#11, .rbf 0x000#11], activeRbfWord w = true := by
  decide
theorem witness_RbfInterleavings : 2 ≤ 2 ∧ RbfInv 2 (rbfAt 2 1 threeCells).rbf := by decide
theorem witness_ACycleIsOneOrder_rbf :
    (∃ t, exec (.rbfPushpop 0x03#8) (rbfAt 1 2 twoCells) = .next t) ∧ rbfEmpty (rbfAt 1 2 twoCells).rbf = false ∧
      rbfFull (rbfAt 1 2 twoCells).params.c (rbfAt 1 2 twoCells).rbf = false := ⟨⟨_, rfl⟩, by decide⟩
theorem witness_ACycleIsOneOrder_rbf_full :
    (∃ t, exec (.rbfPushpop 0x03#8) (rbfAt 0 2 twoCells) = .next t) ∧ rbfEmpty (rbfAt 0 2 twoCells).rbf = false :=
  ⟨⟨_, rfl⟩, by decide⟩
theorem witness_ACycleIsOneOrder_dlcp :
    (∃ t, exec (.dlcpSend 0x03#8) (idleAt 1 2 twoCells) = .next t) ∧ rbfEmpty (idleAt 1 2 twoCells).dlcp.queue = false ∧
      rbfFull (idleAt 1 2 twoCells).params.n (idleAt 1 2 twoCells).dlcp.queue = false := ⟨⟨_, rfl⟩, by decide⟩
theorem witness_CmdUp_ends_of_the_range : u8 0x00#8 < 128 ∧ u8 0x7F#8 < 128 := by decide
theorem witness_CmdDown_ends_of_the_range : 128 ≤ u8 0x80#8 ∧ 128 ≤ u8 0xFF#8 := by decide
theorem witness_Direction_and_duration :
    directionOf 0x80#8 = directionOf 0x80#8 ∧ durationMs 0x80#8 = durationMs 0x80#8 ∧ directionOf 0x80#8 = .down ∧
      durationMs 0x80#8 = 1280 ∧ directionOf 0x7F#8 = .up ∧ durationMs 0x7F#8 = 1270 := by decide
theorem witness_Display : display 0x9C#8 = display 0x9C#8 ∧ 128 ≤ (0x9C#8 : Byte).toNat := by decide
theorem witness_Send_full :
    DlcpCanRun (idleAt 0 2 twoCells) ∧
      ((idleAt 0 2 twoCells).dlcp.queue.wr + 1) % slots (idleAt 0 2 twoCells).params.n =
        (idleAt 0 2 twoCells).dlcp.queue.rd := by decide
theorem witness_Send_free :
    DlcpCanRun (idleAt 1 2 twoCells) ∧
      ((idleAt 1 2 twoCells).dlcp.queue.wr + 1) % slots (idleAt 1 2 twoCells).params.n ≠
        (idleAt 1 2 twoCells).dlcp.queue.rd := by decide
theorem witness_Nop : DlcpCanRun (idleAt 2 0 threeCells) := by decide
theorem witness_Start :
    DlcpActive (.dlcpSend 0x03#8) ∧ DlcpInRange (idleAt 0 2 twoCells) ∧ (idleAt 0 2 twoCells).dlcp.st = .idle ∧
      (idleAt 0 2 twoCells).dlcp.queue.rd ≠ (idleAt 0 2 twoCells).dlcp.queue.wr ∧
      memRead (idleAt 0 2 twoCells).dlcp.queue.mem (idleAt 0 2 twoCells).dlcp.queue.rd = some 0x01#8 ∧
      rbfFull (idleAt 0 2 twoCells).params.n (idleAt 0 2 twoCells).dlcp.queue = true :=
  ⟨.inr ⟨_, rfl⟩, by decide⟩
theorem witness_Count_prescaler_wraps :
    DlcpActive .dlcpNop ∧ DlcpInRange (actAt 4 0xFF#8 2#11 3 1 1 []) ∧ (actAt 4 0xFF#8 2#11 3 1 1 []).dlcp.st = .act ∧
      (actAt 4 0xFF#8 2#11 3 1 1 []).dlcp.msLeft ≠ 0#11 ∧
      (actAt 4 0xFF#8 2#11 3 1 1 []).dlcp.sub = (actAt 4 0xFF#8 2#11 3 1 1 []).params.k - 1 := ⟨.inl rfl, by decide⟩
theorem witness_Count_prescaler_counts :
    DlcpActive .dlcpNop ∧ DlcpInRange (actAt 4 0x80#8 1280#11 2 1 1 []) ∧ (actAt 4 0x80#8 1280#11 2 1 1 []).dlcp.st = .act ∧
      (actAt 4 0x80#8 1280#11 2 1 1 []).dlcp.msLeft ≠ 0#11 ∧
      (actAt 4 0x80#8 1280#11 2 1 1 []).dlcp.sub ≠ (actAt 4 0x80#8 1280#11 2 1 1 []).params.k - 1 := ⟨.inl rfl, by decide⟩
theorem witness_Finish :
    DlcpActive .dlcpNop ∧ (DlcpActive .dlcpReset ∨ Instr.dlcpReset = .dlcpReset) ∧
      DlcpInRange (actAt 1 0xFF#8 0#11 0 1 1 []) ∧ (actAt 1 0xFF#8 0#11 0 1 1 []).dlcp.st = .act ∧
      (actAt 1 0xFF#8 0#11 0 1 1 []).dlcp.msLeft = 0#11 := ⟨.inl rfl, .inr rfl, by decide⟩
theorem witness_Wait :
    DlcpActive (.dlcpSend 0x05#8) ∧ DlcpInRange (idleAt 2 2 threeCells) ∧ (idleAt 2 2 threeCells).dlcp.st = .idle ∧
      (idleAt 2 2 threeCells).dlcp.queue.rd = (idleAt 2 2 threeCells).dlcp.queue.wr := ⟨.inr ⟨_, rfl⟩, by decide⟩
theorem witness_ControllerOutputs :
    (DlcpActive .dlcpNop ∨ Instr.dlcpNop = .dlcpReset) ∧
      ∃ t, exec .dlcpNop (actAt 1 0xFF#8 2#11 0 1 1 []) = .next t ∧ t.dlcpOut.down = true := ⟨.inl (.inl rfl), _, rfl, rfl⟩
theorem witness_OutcomeCodes :
    (∃ t, exec (.dlcpSend 0x03#8) (idleAt 0 2 twoCells) = .next t) ∧ (∃ t, exec (.rbfPush 0x03#8) (rbfAt 0 2 twoCells) = .next t) ∧
      ∃ t, exec .rbfPop (rbfAt 1 1 []) = .next t := ⟨⟨_, rfl⟩, ⟨_, rfl⟩, _, rfl⟩
theorem witness_QueueFull : GoodState (idleAt 0 2 twoCells) ∧ GoodState (actAt 1 0x01#8 10#11 0 1 0 threeCells) := by decide
theorem witness_SlotFreed :
    GoodState (idleAt 0 2 twoCells) ∧ (idleAt 0 2 twoCells).dlcp.st = .idle ∧
      rbfFull (idleAt 0 2 twoCells).params.n (idleAt 0 2 twoCells).dlcp.queue = true := by decide
theorem witness_ByteSent :
    GoodState (idleAt 2 2 threeCells) ∧ Drained (idleAt 2 2 threeCells).dlcp ∧ DlcpActive .dlcpNop ∧
      DlcpActive (.dlcpSend 0x05#8) := ⟨by decide, by decide, .inl rfl, .inr ⟨_, rfl⟩⟩
theorem witness_ExactlyOneIdle :
    GoodState (actAt 1 0x01#8 0#11 0 1 2 twoCells) ∧ DlcpActive .dlcpNop ∧
      (actAt 1 0x01#8 0#11 0 1 2 twoCells).dlcp.st = .act ∧ (actAt 1 0x01#8 0#11 0 1 2 twoCells).dlcp.msLeft = 0#11 ∧
      (actAt 1 0x01#8 0#11 0 1 2 twoCells).dlcp.queue.rd ≠ (actAt 1 0x01#8 0#11 0 1 2 twoCells).dlcp.queue.wr :=
  ⟨by decide, .inl rfl, by decide⟩
/-- The longest list of words the statement speaks of, for a command of 10 ms with `K = 1`. -/
theorem witness_AnActuationLasts :
    GoodState (idleAt 0 2 twoCells) ∧ (idleAt 0 2 twoCells).dlcp.st = .idle ∧
      (idleAt 0 2 twoCells).dlcp.queue.rd ≠ (idleAt 0 2 twoCells).dlcp.queue.wr ∧
      memRead (idleAt 0 2 twoCells).dlcp.queue.mem (idleAt 0 2 twoCells).dlcp.queue.rd = some 0x01#8 ∧
      (∀ x ∈ idleWord :: idleWords 11, activeDlcpWord x = true) ∧
      (idleWords 11).length ≤ durationMs 0x01#8 * (idleAt 0 2 twoCells).params.k + 1 := by decide
/-- An actuation with two cycles left, and the longest lists of words the statement speaks of. -/
theorem witness_NoInputButReset :
    GoodState (actAt 1 0x01#8 2#11 0 1 2 twoCells) ∧ (actAt 1 0x01#8 2#11 0 1 2 twoCells).dlcp.st = .act ∧
      (∀ x ∈ idleWords 3, activeDlcpWord x = true) ∧
      (∀ x ∈ List.replicate 3 (PortWord.dlcp 0x180#10), activeDlcpWord x = true) ∧
      (idleWords 3).length = (List.replicate 3 (PortWord.dlcp 0x180#10)).length ∧
      (idleWords 3).length ≤ remainingCycles 1 (actAt 1 0x01#8 2#11 0 1 2 twoCells).dlcp + 1 := by decide
theorem witness_CommandsStart :
    GoodState (idleAt 1 2 twoCells) ∧
      ∀ w ∈ [PortWord.dlcp 0x180#10, .dlcp 0x000#10, .dlcp 0x17F#10], activeDlcpWord w = true := by decide
theorem witness_ControllerInterleavings :
    2 ≤ (idleAt 1 2 twoCells).params.n ∧ DlcpInv (idleAt 1 2 twoCells).params (idleAt 1 2 twoCells).dlcp ∧
      ∃ r, dlcpInterleave (idleAt 1 2 twoCells).params [.push 0x03#8, .start, .count] (idleAt 1 2 twoCells).dlcp = .next r :=
  ⟨by decide, by decide, _, rfl⟩
/-- Cycles without a byte let nothing into the queue. -/
theorem accepted_idleWords (n : Nat) (s : State) : (dlcpLog (idleWords n) s).accepted = [] := by
  induction n generalizing s with
  | zero => rfl
  | succ n ih =>
    rw [idleWords, List.replicate_succ, dlcpLog]
    cases exec (decode idleWord) s with
    | next t => exact ih t
    | fault f => rfl
    | refused f => rfl
/-- One command pending, and the least number of cycles the statement speaks of. -/
theorem witness_QueueDrains :
    GoodState (idleAt 1 2 twoCells) ∧ (∀ w ∈ idleWords 2564, activeDlcpWord w = true) ∧
      (dlcpLog (idleWords 2564) (idleAt 1 2 twoCells)).accepted = [] ∧
      (rbfCount 2 (idleAt 1 2 twoCells).dlcp.queue + 1) * (1280 * 1 + 2) ≤ (idleWords 2564).length :=
  ⟨by decide, fun w hw => by rw [List.eq_of_mem_replicate hw]; decide, accepted_idleWords _ _, by
    rw [idleWords, List.length_replicate]; decide⟩
theorem witness_ResetCycles :
    DlcpInRange (actAt 1 0x02#8 1280#11 0 1 2 twoCells) ∧ RbfCanRun (rbfAt 1 0 threeCells) ∧ IdxCanRun (idxAt 65 64) ∧
      (PortWord.dlcp 0x303#10).isReset = true ∧ (PortWord.rbf 0x700#11).isReset = true ∧
      (PortWord.idx 0b11#2).isReset = true := by decide
theorem witness_ResetAborts :
    DlcpInRange (actAt 1 0x02#8 5#11 0 0 2 twoCells) ∧ (actAt 1 0x02#8 5#11 0 0 2 twoCells).dlcp.st = .act ∧
      DlcpActive .dlcpNop := ⟨by decide, by decide, .inl rfl⟩
theorem witness_ResetState : Params.wf { c := 2, n := 2, k := 1, limit := 1 } = true := by decide
theorem witness_EveryStepKeeps :
    GoodState (idleAt 1 2 twoCells) ∧ ∃ t, step (idleAt 1 2 twoCells) = .next t := ⟨by decide, _, rfl⟩
theorem witness_NothingStops : GoodState (actAt 4 0x80#8 1280#11 3 2 1 threeCells) ∧ GoodState State.reset := by decide
theorem witness_EveryLaunchedRun :
    Params.wf { c := 2, n := 2, k := 1, limit := 1 } = true ∧ runWf [.dlcp 0x200#10, .dlcp 0x10A#10] = true := by decide
theorem witness_LaunchRefuses_capacity : ∃ p : Params, p.c < 2 ∨ p.n < 2 := ⟨⟨1, 2, 1, 1⟩, by decide⟩
theorem witness_LaunchRefuses_clock : ∃ p : Params, 2 ≤ p.c ∧ 2 ≤ p.n ∧ p.k < 1 := ⟨⟨2, 2, 0, 1⟩, by decide⟩
theorem witness_LaunchRefuses_limit : ∃ p : Params, 2 ≤ p.c ∧ 2 ≤ p.n ∧ 1 ≤ p.k ∧ p.limit < 1 := ⟨⟨2, 2, 1, 0⟩, by decide⟩
theorem witness_LaunchRefuses_run : Params.reference.wf = true ∧ runWf [.dlcp 0x10A#10] = false := by decide
/-- A list that begins with a reset and mixes two formats, which is no run by log entry 12, and one of CODEC bytes. -/
theorem witness_LaunchRefuses_mixed_formats :
    Params.reference.wf = true ∧ (PortWord.dlcp 0x200#10).isReset = true ∧
      runWf [.dlcp 0x200#10, .rbf 0x000#11] = false ∧ runWf [.cmd 0x0A#8] = false := by decide
theorem witness_LaunchRefuses_nothing_else : Params.reference.wf = true ∧ runWf [.dlcp 0x200#10] = true := by decide
theorem witness_OutOfRange_idx :
    (Instr.idxHold = .idxHold ∨ Instr.idxHold = .idxAdv ∨ Instr.idxHold = .idxReset) ∧ 1 ≤ (idxAt 3 3).params.limit ∧
      (idxAt 3 3).params.limit ≤ (idxAt 3 3).idx := by decide
theorem witness_OutOfRange_capacity :
    Instr.rbfPop ∈ [Instr.rbfNop, .rbfPush 0#8, .rbfPop, .rbfPushpop 0#8, .rbfReset] ∧
      ({ small 1 with params := ⟨1, 2, 1, 1⟩ } : State).params.c < 2 := by decide
theorem witness_OutOfRange_rbf :
    Instr.rbfPop ∈ [Instr.rbfNop, .rbfPush 0#8, .rbfPop, .rbfPushpop 0#8, .rbfReset] ∧ 2 ≤ (rbfAt 0 3 []).params.c ∧
      slots (rbfAt 0 3 []).params.c ≤ (rbfAt 0 3 []).rbf.wr := by decide
theorem witness_OutOfRange_bottom :
    RbfCanRun (rbfAt 0 1 []) ∧ (rbfAt 0 1 []).rbf.rd ≠ (rbfAt 0 1 []).rbf.wr ∧
      memRead (rbfAt 0 1 []).rbf.mem (rbfAt 0 1 []).rbf.rd = none := by decide
theorem witness_OutOfRange_queue_capacity :
    (DlcpActive .dlcpNop ∨ Instr.dlcpNop = .dlcpReset) ∧ ({ small 1 with params := ⟨2, 1, 1, 1⟩ } : State).params.n < 2 :=
  ⟨.inl (.inl rfl), by decide⟩
theorem witness_OutOfRange_clock :
    (DlcpActive .dlcpNop ∨ Instr.dlcpNop = .dlcpReset) ∧ 2 ≤ (small 0).params.n ∧ (small 0).params.k < 1 :=
  ⟨.inl (.inl rfl), by decide⟩
theorem witness_OutOfRange_queue :
    (DlcpActive .dlcpReset ∨ Instr.dlcpReset = .dlcpReset) ∧ 2 ≤ (idleAt 3 0 []).params.n ∧ 1 ≤ (idleAt 3 0 []).params.k ∧
      slots (idleAt 3 0 []).params.n ≤ (idleAt 3 0 []).dlcp.queue.rd := ⟨.inr rfl, by decide⟩
/-- The premises the last three clauses share: parameters and indices in range. -/
abbrev QueueInRange (s : State) : Prop :=
  2 ≤ s.params.n ∧ 1 ≤ s.params.k ∧ s.dlcp.queue.rd < slots s.params.n ∧ s.dlcp.queue.wr < slots s.params.n
theorem witness_OutOfRange_msLeft :
    (DlcpActive .dlcpNop ∨ Instr.dlcpNop = .dlcpReset) ∧ QueueInRange (actAt 1 0x80#8 1281#11 0 0 2 []) ∧
      (actAt 1 0x80#8 1281#11 0 0 2 []).dlcp.st = .act ∧ 1280 < (actAt 1 0x80#8 1281#11 0 0 2 []).dlcp.msLeft.toNat :=
  ⟨.inl (.inl rfl), by decide⟩
theorem witness_OutOfRange_sub :
    (DlcpActive .dlcpNop ∨ Instr.dlcpNop = .dlcpReset) ∧ QueueInRange (actAt 2 0x80#8 1280#11 2 0 0 []) ∧
      ((actAt 2 0x80#8 1280#11 2 0 0 []).dlcp.st = .act → (actAt 2 0x80#8 1280#11 2 0 0 []).dlcp.msLeft.toNat ≤ 1280) ∧
      (actAt 2 0x80#8 1280#11 2 0 0 []).params.k ≤ (actAt 2 0x80#8 1280#11 2 0 0 []).dlcp.sub :=
  ⟨.inl (.inl rfl), by decide⟩
theorem witness_OutOfRange_start :
    (DlcpActive .dlcpNop ∨ Instr.dlcpNop = .dlcpReset) ∧ QueueInRange (idleAt 0 1 []) ∧ (idleAt 0 1 []).dlcp.st = .idle ∧
      (idleAt 0 1 []).dlcp.sub < (idleAt 0 1 []).params.k ∧
      (idleAt 0 1 []).dlcp.queue.rd ≠ (idleAt 0 1 []).dlcp.queue.wr ∧
      memRead (idleAt 0 1 []).dlcp.queue.mem (idleAt 0 1 []).dlcp.queue.rd = none ∧ Instr.dlcpNop ≠ .dlcpReset :=
  ⟨.inl (.inl rfl), by decide⟩
theorem witness_InFlight :
    CommandMatches (idleAt 1 2 twoCells).dlcp ∧ ∃ t, step (idleAt 1 2 twoCells) = .next t ∧ t.dlcp.st = .act :=
  ⟨by decide, _, rfl, rfl⟩
theorem witness_EveryOperation :
    (∃ t, exec .dlcpNop (small 1) = .next t) ∧ (encode .dlcpNop).format ≠ .rbfCyc ∧ (encode .rbfPop).format ≠ .dlcpCyc ∧
      (encode .rbfPop).format ≠ .idxCyc ∧ (encode .idxAdv).format ≠ .cmd := ⟨⟨_, rfl⟩, by decide⟩
theorem witness_FieldWidth : (64 < 65) ∧ 1 ≤ 7 ∧ ∀ v < 65, v < 2 ^ 7 := by decide

end Sys2Proof.Machine
end

/-!
# The index width (00_scope.md R9)

The model's search for `ceil(log2 m)` is the library's `Nat.clog 2 m`, so `fieldWidth` meets its one
law, `fieldWidth_le_iff`: the widths at or above `fieldWidth m` are exactly the widths of at least 1
that hold every value in `[0, m)`.
-/
namespace Sys2Proof.Machine

/-- The search stops within its range: `m ≤ 2 ^ (m - 1)` for every positive `m`. -/
theorem clog_two_lt_self {m : Nat} (hm : 0 < m) : Nat.clog 2 m < m := by
  have hfit : m ≤ 2 ^ (m - 1) := by
    have := Nat.lt_two_pow_self (n := m - 1)
    omega
  have := Nat.clog_le_of_le_pow hfit
  omega

theorem ceilLog2_eq_clog (m : Nat) : ceilLog2 m = Nat.clog 2 m := by
  obtain rfl | hm := Nat.eq_zero_or_pos m
  · simp [ceilLog2]
  · have hfound : (List.range m).find? (fun w => decide (m ≤ 2 ^ w)) = some (Nat.clog 2 m) := by
      refine List.find?_range_eq_some.2 ⟨?_, List.mem_range.2 (clog_two_lt_self hm), fun w hw => ?_⟩
      · exact decide_eq_true (Nat.le_pow_clog Nat.one_lt_two m)
      · simpa using Nat.pow_lt_of_lt_clog hw
    rw [ceilLog2, hfound, Option.getD_some]

/-- The law of `fieldWidth`, from which both bounds of R9 follow. -/
theorem fieldWidth_le_iff {m w : Nat} : fieldWidth m ≤ w ↔ 1 ≤ w ∧ m ≤ 2 ^ w := by
  rw [fieldWidth, max_le_iff, ceilLog2_eq_clog, Nat.clog_le_iff_le_pow Nat.one_lt_two]

theorem le_two_pow_fieldWidth (m : Nat) : m ≤ 2 ^ fieldWidth m := (fieldWidth_le_iff.1 le_rfl).2

/-- Settles O59, by the law of `fieldWidth`: at the width itself it gives that every index fits, at any
other width that holds every index it gives the lower bound. -/
theorem fieldWidthIsTheLeastThatHoldsEveryIndex : Obligations.FieldWidthIsTheLeastThatHoldsEveryIndex := by
  refine ⟨fun m v hv => ?fits, fun m w hpos hholds => ?least, ?reference⟩
  case fits => exact hv.trans_le (le_two_pow_fieldWidth m)
  case least => exact fieldWidth_le_iff.2 ⟨hpos, le_of_forall_lt hholds⟩
  case reference => decide

end Sys2Proof.Machine

/-!
# Who writes a ring (10_state.md R24)

`OwnersWrite` says R24 of one RBF across one clock edge. It is proved once of the edge of the stand-alone RBF and once
of the edge of the controller, whose reset, push and pop are its port `rst`, a successful SEND and a START; an operation
of another block leaves the ring as it is. Both halves of O20 are then `OwnersWrite` with the operations named.
-/
namespace Sys2Proof.Machine

/-- R24 of an RBF of capacity `cap` that goes from `q` to `q'`: what must have happened where `wr`, `rd` or a slot reads
otherwise. -/
structure OwnersWrite (cap : Nat) (q q' : Rbf) (reset pushed popped : Prop) : Prop where
  wr : q'.wr ≠ q.wr → reset ∨ (pushed ∧ q'.wr = wrapNext (slots cap) q.wr)
  rd : q'.rd ≠ q.rd → reset ∨ (popped ∧ q'.rd = wrapNext (slots cap) q.rd)
  slot : ∀ a, memRead q'.mem a ≠ memRead q.mem a → a = q.wr ∧ pushed

section
variable {cap : Nat} {q q' : Rbf} {reset pushed popped : Prop}

/-- A ring that nothing touches. -/
theorem OwnersWrite.of_eq (h : q' = q) : OwnersWrite cap q q' reset pushed popped :=
  ⟨fun hne => absurd (congrArg Rbf.wr h) hne, fun hne => absurd (congrArg Rbf.rd h) hne,
    fun a hne => absurd (congrArg (fun r => memRead r.mem a) h) hne⟩

/-- The events may be described more loosely. -/
theorem OwnersWrite.imp {reset' pushed' popped' : Prop} (h : OwnersWrite cap q q' reset pushed popped)
    (hreset : reset → reset') (hpush : pushed → pushed') (hpop : popped → popped') :
    OwnersWrite cap q q' reset' pushed' popped' :=
  ⟨fun hne => (h.wr hne).imp hreset (And.imp_left hpush), fun hne => (h.rd hne).imp hreset (And.imp_left hpop),
    fun a hne => (h.slot a hne).imp_right hpush⟩

/-- A reset writes both indices and no slot (R120). -/
theorem OwnersWrite.rbfResetRegs (h : reset) : OwnersWrite cap q (rbfResetRegs q) reset pushed popped :=
  ⟨fun _ => .inl h, fun _ => .inl h, fun _ hne => absurd rfl hne⟩

end

/-- A write into one slot is the only thing that makes a slot read otherwise. -/
theorem eq_of_memRead_memWrite_ne {m : Memory} {i a : Nat} {v : Byte}
    (h : memRead (memWrite m i v) a ≠ memRead m a) : a = i := by
  by_contra hne
  exact h (memRead_memWrite_of_ne m v hne)

/-- A successful push was requested (R114). -/
theorem push_of_pushOk {cap : Nat} {q : Rbf} {rst push : Bool} (h : pushOk cap q rst push = true) : push = true := by
  simp only [pushOk, Bool.and_eq_true] at h
  exact h.1.2

/-- A successful pop was requested (R116). -/
theorem pop_of_popValid {q : Rbf} {rst pop : Bool} (h : popValid q rst pop = true) : pop = true := by
  simp only [popValid, Bool.and_eq_true] at h
  exact h.1.2

/-! ### The stand-alone RBF -/

/-- The edge without a reset: each register changes only under its own agent's success. -/
theorem ownersWrite_rbfEdge (cap : Nat) (q : Rbf) (rst push pop : Bool) (data : Byte) :
    OwnersWrite cap q (rbfEdge cap q rst push pop data) (rst = true) (pushOk cap q rst push = true)
      (popValid q rst pop = true) := by
  unfold rbfEdge
  cases rst with
  | true => exact .rbfResetRegs rfl
  | false =>
    refine ⟨?wr, ?rd, ?slot⟩
    case wr => cases pushOk cap q false push <;> simp
    case rd => cases popValid q false pop <;> simp
    case slot =>
      cases pushOk cap q false push with
      | false => simp
      | true => exact fun a hne => ⟨eq_of_memRead_memWrite_ne hne, rfl⟩

/-- A cycle of the stand-alone RBF, its successes read off the ports it shows. -/
theorem ownersWrite_rbfCycle {rst push pop : Bool} {data : Byte} {s t : State}
    (h : rbfCycle rst push pop data s = .next t) :
    OwnersWrite s.params.c s.rbf t.rbf (rst = true) (t.rbfOut.pushOk = true ∧ push = true)
      (t.rbfOut.popValid = true ∧ pop = true) := by
  obtain ⟨_, head, _, rfl⟩ := rbfCycle_eq_next.1 h
  exact (ownersWrite_rbfEdge s.params.c s.rbf rst push pop data).imp id
    (fun hok => ⟨hok, push_of_pushOk hok⟩) (fun hok => ⟨hok, pop_of_popValid hok⟩)

/-! ### The controller -/

/-- The consumer writes no slot and no `wr`, and `rd` in START alone (R153 to R156). -/
theorem consume_queue_cases {p : Params} {d c : Dlcp} (h : consume p d = .next c) :
    c.queue = d.queue ∨ (c.queue = popWrites p.n d.queue ∧ d.st = .idle ∧ c.st = .act) := by
  obtain ⟨hidle, _, b, _, rfl⟩ | ⟨_, _, rfl⟩ | ⟨_, _, rfl⟩ | ⟨_, _, rfl⟩ := consume_eq_next.1 h
  · exact .inr ⟨rfl, hidle, rfl⟩
  · exact .inl rfl
  · exact .inl (countCycle_queue _ _)
  · exact .inl rfl

/-- What the consumer makes of the controller: a pop is a START. -/
theorem ownersWrite_consume {p : Params} {d c : Dlcp} {reset pushed : Prop} (h : consume p d = .next c) :
    OwnersWrite p.n d.queue c.queue reset pushed (d.st = .idle ∧ c.st = .act) := by
  obtain hsame | ⟨hpop, hstart⟩ := consume_queue_cases h
  · exact .of_eq hsame
  · rw [hpop]
    exact ⟨fun hne => absurd rfl hne, fun _ => .inr ⟨hstart, rfl⟩, fun _ hne => absurd rfl hne⟩

/-- The producer's writes on top of the consumer's: the slot at the pre-state's `wr`, and `wr`. -/
theorem OwnersWrite.produce {n : Nat} {d c : Dlcp} {v : Byte} {reset pushed popped : Prop}
    (h : OwnersWrite n d.queue c.queue reset pushed popped) (hpush : pushed) :
    OwnersWrite n d.queue (produce n d v c).queue reset pushed popped :=
  ⟨fun _ => .inr ⟨hpush, rfl⟩, h.rd, fun _ hne => ⟨eq_of_memRead_memWrite_ne hne, hpush⟩⟩

/-- The controller's edge: a reset, or the consumer's action with the producer's writes where the SEND succeeds. -/
theorem ownersWrite_dlcpEdge {p : Params} {d e : Dlcp} {rst rxValid : Bool} {rxByte : Byte}
    (h : dlcpEdge p d rst rxValid rxByte = .next e) :
    OwnersWrite p.n d.queue e.queue (rst = true) (pushOk p.n d.queue rst rxValid = true)
      (d.st = .idle ∧ e.st = .act) := by
  obtain ⟨rfl, rfl⟩ | ⟨rfl, c, hc, rfl⟩ := dlcpEdge_eq_next.1 h
  · exact .rbfResetRegs rfl
  · split
    next hpush => exact (ownersWrite_consume hc).produce hpush
    next => exact ownersWrite_consume hc

/-- A cycle of the controller, its push's success read off `rx_ok`. -/
theorem ownersWrite_dlcpCycle {rst rxValid : Bool} {rxByte : Byte} {s t : State}
    (h : dlcpCycle rst rxValid rxByte s = .next t) :
    OwnersWrite s.params.n s.dlcp.queue t.dlcp.queue (rst = true) (t.dlcpOut.rxOk = true ∧ rxValid = true)
      (s.dlcp.st = .idle ∧ t.dlcp.st = .act) := by
  obtain ⟨_, d, hedge, rfl⟩ := dlcpCycle_eq_next.1 h
  exact (ownersWrite_dlcpEdge hedge).imp id (fun hok => ⟨hok, push_of_pushOk hok⟩) id

/-! ### The other blocks' cycles -/

theorem rbf_of_dlcpCycle {rst rxValid : Bool} {rxByte : Byte} {s t : State}
    (h : dlcpCycle rst rxValid rxByte s = .next t) : t.rbf = s.rbf := by
  obtain ⟨_, d, _, rfl⟩ := dlcpCycle_eq_next.1 h
  rfl

theorem dlcp_of_rbfCycle {rst push pop : Bool} {data : Byte} {s t : State}
    (h : rbfCycle rst push pop data s = .next t) : t.dlcp = s.dlcp := by
  obtain ⟨_, head, _, rfl⟩ := rbfCycle_eq_next.1 h
  rfl

theorem rings_of_idxCycle {rst adv : Bool} {s t : State} (h : idxCycle rst adv s = .next t) :
    t.rbf = s.rbf ∧ t.dlcp = s.dlcp := by
  obtain ⟨_, rfl⟩ := idxCycle_eq_next.1 h
  exact ⟨rfl, rfl⟩

theorem rings_of_codecApply {b : Byte} {s t : State} (h : codecApply b s = .next t) :
    t.rbf = s.rbf ∧ t.dlcp = s.dlcp := by
  obtain rfl := next_eq_next.1 h
  exact ⟨rfl, rfl⟩

/-! ### Every operation -/

/-- R24 of the stand-alone RBF: each of its operations is its cycle under that operation's ports. -/
theorem ownersWrite_rbf {i : Instr} {s t : State} (h : exec i s = .next t) :
    OwnersWrite s.params.c s.rbf t.rbf (i = .rbfReset)
      (t.rbfOut.pushOk = true ∧ ∃ v, i = .rbfPush v ∨ i = .rbfPushpop v)
      (t.rbfOut.popValid = true ∧ (i = .rbfPop ∨ ∃ v, i = .rbfPushpop v)) := by
  cases i with
  | rbfNop => exact (ownersWrite_rbfCycle h).imp nofun (fun hp => nomatch hp.2) (fun hp => nomatch hp.2)
  | rbfPush v =>
    exact (ownersWrite_rbfCycle h).imp nofun (fun hp => ⟨hp.1, v, .inl rfl⟩) (fun hp => nomatch hp.2)
  | rbfPop => exact (ownersWrite_rbfCycle h).imp nofun (fun hp => nomatch hp.2) (fun hp => ⟨hp.1, .inl rfl⟩)
  | rbfPushpop v =>
    exact (ownersWrite_rbfCycle h).imp nofun (fun hp => ⟨hp.1, v, .inr rfl⟩) (fun hp => ⟨hp.1, .inr ⟨v, rfl⟩⟩)
  | rbfReset =>
    exact (ownersWrite_rbfCycle h).imp (fun _ => rfl) (fun hp => nomatch hp.2) (fun hp => nomatch hp.2)
  | dlcpNop | dlcpSend | dlcpReset => exact .of_eq (rbf_of_dlcpCycle h)
  | idxHold | idxAdv | idxReset => exact .of_eq (rings_of_idxCycle h).1
  | cmdUp | cmdDown => exact .of_eq (rings_of_codecApply h).1

/-- R24 of the controller's queue: each of its operations is its cycle under that operation's ports. -/
theorem ownersWrite_queue {i : Instr} {s t : State} (h : exec i s = .next t) :
    OwnersWrite s.params.n s.dlcp.queue t.dlcp.queue (i = .dlcpReset)
      (t.dlcpOut.rxOk = true ∧ ∃ v, i = .dlcpSend v) (s.dlcp.st = .idle ∧ t.dlcp.st = .act) := by
  cases i with
  | dlcpNop => exact (ownersWrite_dlcpCycle h).imp nofun (fun hp => nomatch hp.2) id
  | dlcpSend v => exact (ownersWrite_dlcpCycle h).imp nofun (fun hp => ⟨hp.1, v, rfl⟩) id
  | dlcpReset => exact (ownersWrite_dlcpCycle h).imp (fun _ => rfl) (fun hp => nomatch hp.2) id
  | rbfNop | rbfPush | rbfPop | rbfPushpop | rbfReset =>
    exact .of_eq (congrArg Dlcp.queue (dlcp_of_rbfCycle h))
  | idxHold | idxAdv | idxReset => exact .of_eq (congrArg Dlcp.queue (rings_of_idxCycle h).2)
  | cmdUp | cmdDown => exact .of_eq (congrArg Dlcp.queue (rings_of_codecApply h).2)

/-- Settles O20: `ownersWrite_rbf` and `ownersWrite_queue`, one conjunct per field of `OwnersWrite`. -/
theorem onlyTheOwnersWriteTheRings : Obligations.OnlyTheOwnersWriteTheRings := by
  intro i s t h
  have hrbf := ownersWrite_rbf h
  have hqueue := ownersWrite_queue h
  refine ⟨fun hne => ?rbfWr, fun hne => ?rbfRd, hrbf.slot, fun hne => ?queueWr, fun hne => ?queueRd, hqueue.slot⟩
  case rbfWr => exact (hrbf.wr hne).imp_right fun ⟨⟨hok, hop⟩, hwr⟩ => ⟨hop, hok, hwr⟩
  case rbfRd => exact (hrbf.rd hne).imp_right fun ⟨⟨hvalid, hop⟩, hrd⟩ => ⟨hop, hvalid, hrd⟩
  case queueWr => exact (hqueue.wr hne).imp_right fun ⟨⟨hok, hop⟩, hwr⟩ => ⟨hop, hok, hwr⟩
  case queueRd => exact (hqueue.rd hne).imp_right fun ⟨⟨hidle, hact⟩, hrd⟩ => ⟨hidle, hact, hrd⟩

end Sys2Proof.Machine

/-!
# The stand-alone IDX (40_wrap_index.md)

The three operations are one cycle rule under three settings of `rst` and `adv`, so each fact is said once of `idxCycle`:
what it does to an IDX in range (`idxCycle_of_idxCanRun`), and that it is refused where the limit is 0 (R106).
-/
namespace Sys2Proof.Machine

/-- A cycle of an IDX in range, with its frame: the value R105 chooses, and the ports of the pre-state. -/
theorem idxCycle_of_idxCanRun {s : State} (h : IdxCanRun s) (rst adv : Bool) :
    idxCycle rst adv s =
      .next { s with idx := if rst then 0 else if adv then (s.idx + 1) % s.params.limit else s.idx
                     idxOut := ⟨s.idx, (s.idx + 1) % s.params.limit⟩ } :=
  idxCycle_eq_next.2 ⟨h, rfl⟩

/-- Settles O9: HOLD, ADV and RESET are the cycle of an IDX in range with `{rst, adv}` at `00`, `01` and `10`, and the
decoder tests the two bits in the statement's order. -/
theorem idxCycleHoldsAdvancesOrResets : Obligations.IdxCycleHoldsAdvancesOrResets := by
  refine ⟨fun s hrun => ⟨?hold, ?adv, ?reset⟩, fun w => ?word⟩
  case hold => exact idxCycle_of_idxCanRun hrun false false
  case adv => exact idxCycle_of_idxCanRun hrun false true
  case reset => exact idxCycle_of_idxCanRun hrun true false
  case word => rfl

/-- R106 of one cycle: the limit is looked at before the value and before `rst`. -/
theorem idxCycle_of_limit_eq_zero {s : State} (h : s.params.limit = 0) (rst adv : Bool) :
    idxCycle rst adv s = .refused .limitZero := by
  rw [idxCycle, idxReady, if_pos h, andThen]

/-- R106 at launch, whatever the words: the limit is the first parameter at fault. -/
theorem launch_of_limit_eq_zero {p : Params} (hc : 2 ≤ p.c) (hn : 2 ≤ p.n) (hk : 1 ≤ p.k) (hlimit : p.limit = 0)
    (ws : List PortWord) : launch p ws = .refused .limitZero := by
  have hcap : ¬(p.c < 2 ∨ p.n < 2) := by omega
  have hclk : ¬p.k < 1 := by omega
  have hzero : p.limit < 1 := by omega
  rw [launch, if_neg hcap, if_neg hclk, if_pos hzero]

/-- Settles O12: each operation is a cycle of the IDX, the launch checks the limit before the words, and an RBF's
`L = C + 1` is at least 3. -/
theorem idxWithLimitZeroIsRefused : Obligations.IdxWithLimitZeroIsRefused := by
  refine ⟨fun s i hi hlimit => ?cycle, fun p ws hc hn hk hlimit => ?launch, fun cap hcap => ?rbf⟩
  case cycle => obtain rfl | rfl | rfl := hi <;> exact idxCycle_of_limit_eq_zero hlimit _ _
  case launch => exact launch_of_limit_eq_zero hc hn hk hlimit ws
  case rbf => exact Nat.succ_le_succ hcap

end Sys2Proof.Machine

/-!
# The stand-alone RBF (41_ring_buffer.md)

The operations are one cycle rule (R121) under settings of `rst`, `push` and `pop`. What the writes of a PUSH and of a
POP do to `count` is proved once each (`rbfCount_pushWrites`, `rbfCount_popWrites`); the edge of a PUSHPOP makes the POP's
from a full pre-state, the PUSH's from an empty one, and both from any other.
-/
namespace Sys2Proof.Machine

/-! ### The words (30_encoding.md R78) -/

/-- The operation of a word given as its three control bits and its byte. -/
theorem decode_rbf_append (c : BitVec 3) (v : Byte) :
    decode (.rbf (c ++ v)) =
      if c.getLsbD 2 then .rbfReset
      else if c.getLsbD 1 then if c.getLsbD 0 then .rbfPushpop v else .rbfPush v
      else if c.getLsbD 0 then .rbfPop
      else .rbfNop := by
  have hbyte : (c ++ v).extractLsb' 0 8 = v := BitVec.extractLsb'_append_eq_right
  have hreset : (c ++ v : BitVec 11).getLsbD 10 = c.getLsbD 2 := BitVec.getLsbD_append
  have hpush : (c ++ v : BitVec 11).getLsbD 9 = c.getLsbD 1 := BitVec.getLsbD_append
  have hpop : (c ++ v : BitVec 11).getLsbD 8 = c.getLsbD 0 := BitVec.getLsbD_append
  rw [decode, decodeRbf, hreset, hpush, hpop, hbyte]

/-! ### The flags and the count (10_state.md R25) -/

theorem rbfCount_of_rbfEmpty {q : Rbf} (h : rbfEmpty q = true) (cap : Nat) : rbfCount cap q = 0 := by
  simp [rbfCount, rbfEmpty_eq_true.1 h]

section
variable {cap : Nat} {q : Rbf} (hrd : q.rd < slots cap) (hwr : q.wr < slots cap)
include hrd hwr

theorem rbfCount_of_rbfFull (h : rbfFull cap q = true) : rbfCount cap q = cap := by
  have hnext := rbfFull_eq_true.1 h
  rw [wrapNext_eq_ite hwr] at hnext
  rw [rbfCount_eq_ite hrd hwr]
  unfold slots at *
  split at hnext <;> split <;> omega

/-- A capacity of at least 1 keeps the two flags apart: they stand for different counts (R119). -/
theorem not_rbfFull_and_rbfEmpty (hcap : 1 ≤ cap) : ¬(rbfFull cap q = true ∧ rbfEmpty q = true) := by
  rintro ⟨hfull, hempty⟩
  have hcount := rbfCount_of_rbfFull hrd hwr hfull
  rw [rbfCount_of_rbfEmpty hempty] at hcount
  omega

/-- A push into a free slot adds one element (R113). -/
theorem rbfCount_pushWrites (h : rbfFull cap q = false) (v : Byte) :
    rbfCount cap (pushWrites cap q v) = rbfCount cap q + 1 := by
  have hne : wrapNext (slots cap) q.wr ≠ q.rd := by simpa [rbfFull] using h
  have hnext := wrapNext_lt (slots_pos cap) q.wr
  rw [rbfCount_eq_ite (q := pushWrites cap q v) hrd hnext, rbfCount_eq_ite hrd hwr, pushWrites_rd, pushWrites_wr]
  rw [wrapNext_eq_ite hwr] at hne ⊢
  split_ifs at hne ⊢ <;> omega

/-- A pop of an element takes one away (R115). -/
theorem rbfCount_popWrites (h : rbfEmpty q = false) : rbfCount cap (popWrites cap q) + 1 = rbfCount cap q := by
  have hne : q.rd ≠ q.wr := by simpa [rbfEmpty] using h
  have hnext := wrapNext_lt (slots_pos cap) q.rd
  rw [rbfCount_eq_ite (q := popWrites cap q) hnext hwr, rbfCount_eq_ite hrd hwr, popWrites_rd, popWrites_wr,
    wrapNext_eq_ite hrd]
  split_ifs <;> omega

/-- A push into a free slot leaves an element to pop (R113). -/
theorem rbfEmpty_pushWrites (h : rbfFull cap q = false) (v : Byte) : rbfEmpty (pushWrites cap q v) = false := by
  by_contra hempty
  have hzero := rbfCount_of_rbfEmpty (eq_true_of_ne_false hempty) cap
  rw [rbfCount_pushWrites hrd hwr h] at hzero
  omega

/-- A push into a free slot and a pop after it keep the count. -/
theorem rbfCount_popWrites_pushWrites (h : rbfFull cap q = false) (v : Byte) :
    rbfCount cap (popWrites cap (pushWrites cap q v)) = rbfCount cap q := by
  have hpop := rbfCount_popWrites (q := pushWrites cap q v) hrd (wrapNext_lt (slots_pos cap) q.wr)
    (rbfEmpty_pushWrites hrd hwr h v)
  rw [rbfCount_pushWrites hrd hwr h] at hpop
  omega

end

/-! ### The ports and the edge of a cycle with a request (R114, R116, R121) -/

@[simp] theorem pushOk_request (cap : Nat) (q : Rbf) : pushOk cap q false true = !rbfFull cap q := by simp [pushOk]

@[simp] theorem pushFull_request (cap : Nat) (q : Rbf) : pushFull cap q false true = rbfFull cap q := by simp [pushFull]

@[simp] theorem popValid_request (q : Rbf) : popValid q false true = !rbfEmpty q := by simp [popValid]

/-- The ports of a PUSHPOP: an outcome for the push and one for the pop. -/
theorem rbfOutputs_pushpop (cap : Nat) (q : Rbf) (head : Byte) :
    rbfOutputs cap q false true true head =
      { pushOk := !rbfFull cap q, pushFull := rbfFull cap q, popValid := !rbfEmpty q
        popData := if !rbfEmpty q then head else 0x00#8
        full := rbfFull cap q, empty := rbfEmpty q, count := rbfCount cap q } := by
  simp [rbfOutputs]

theorem rbfEdge_pushpop_of_full {cap : Nat} {q : Rbf} (hfull : rbfFull cap q = true) (hempty : rbfEmpty q = false)
    (v : Byte) : rbfEdge cap q false true true v = popWrites cap q := by
  simp [rbfEdge, popWrites, hfull, hempty]

theorem rbfEdge_pushpop_of_empty {cap : Nat} {q : Rbf} (hfull : rbfFull cap q = false) (hempty : rbfEmpty q = true)
    (v : Byte) : rbfEdge cap q false true true v = pushWrites cap q v := by
  simp [rbfEdge, pushWrites, hfull, hempty]

theorem rbfEdge_pushpop_of_neither {cap : Nat} {q : Rbf} (hfull : rbfFull cap q = false) (hempty : rbfEmpty q = false)
    (v : Byte) : rbfEdge cap q false true true v = popWrites cap (pushWrites cap q v) := by
  simp [rbfEdge, popWrites, pushWrites, hfull, hempty]

/-! ### Cycles that run -/

/-- A cycle in range in which no pop succeeds, with the ports of the pre-state. -/
theorem rbfCycle_of_popValid_eq_false {s : State} (h : RbfCanRun s) {rst push pop : Bool}
    (hpop : popValid s.rbf rst pop = false) (data : Byte) :
    rbfCycle rst push pop data s =
      .next (s.setRbf (rbfEdge s.params.c s.rbf rst push pop data)
        (rbfOutputs s.params.c s.rbf rst push pop 0x00#8)) :=
  rbfCycle_eq_next.2 ⟨h, 0x00#8, popByte_eq_next.2 (.inr ⟨hpop, rfl⟩), rfl⟩

/-- A cycle in range that requests a pop runs when the slot at `rd` holds a byte or there is nothing to pop, and the
byte it shows for an element is the one at `rd`. -/
theorem exists_rbfCycle_of_headHolds {s : State} (h : RbfCanRun s) (hholds : RbfHeadHolds s) (push : Bool)
    (data : Byte) :
    ∃ head, (rbfEmpty s.rbf = false → memRead s.rbf.mem s.rbf.rd = some head) ∧
      rbfCycle false push true data s =
        .next (s.setRbf (rbfEdge s.params.c s.rbf false push true data)
          (rbfOutputs s.params.c s.rbf false push true head)) := by
  cases hempty : rbfEmpty s.rbf with
  | true => exact ⟨0x00#8, nofun, rbfCycle_of_popValid_eq_false h (by simp [hempty]) data⟩
  | false =>
    have hne : s.rbf.rd ≠ s.rbf.wr := by simpa [rbfEmpty] using hempty
    obtain ⟨head, hhead⟩ := Option.isSome_iff_exists.1 (hholds hne)
    have hpop : popByte s.rbf false true = .next head := popByte_eq_next.2 (.inl ⟨by simp [hempty], hhead⟩)
    exact ⟨head, fun _ => hhead, rbfCycle_eq_next.2 ⟨h, head, hpop, rfl⟩⟩

/-- Settles O13: a cycle without reset, push or pop, and the words whose control bits are 0. -/
theorem rbfNopChangesNothing : Obligations.RbfNopChangesNothing := by
  refine ⟨fun s hrun => ?cycle, fun v => ?word⟩
  case cycle => exact rbfCycle_of_popValid_eq_false hrun (push := false) (pop := false) rfl 0x00#8
  case word => exact decode_rbf_append 0b000#3 v

/-- Settles O17: a reset cycle writes the two indices alone, and the flags after it are those of `rd = wr = 0`. -/
theorem rbfResetEmptiesWithoutWritingASlot : Obligations.RbfResetEmptiesWithoutWritingASlot := by
  refine ⟨fun s hrun => ?cycle, fun w hw => ?word⟩
  case word => exact if_pos hw
  case cycle =>
    have hcap : 2 ≤ s.params.c := hrun.1
    have hempty : rbfEmpty (rbfResetRegs s.rbf) = true := rfl
    have hfull : rbfFull s.params.c (rbfResetRegs s.rbf) = false := by
      have hboth := not_rbfFull_and_rbfEmpty (q := rbfResetRegs s.rbf) (slots_pos s.params.c) (slots_pos s.params.c)
        (by omega)
      simpa [hempty] using hboth
    exact ⟨_, rbfCycle_of_popValid_eq_false hrun (push := false) (pop := false) rfl 0x00#8, rfl, fun _ => rfl, hempty,
      hfull, rbfCount_of_rbfEmpty hempty _⟩

/-- Settles O16: the edge makes the writes of a POP from full, of a PUSH from empty and of both from neither, and the
count follows what each does to it. -/
theorem rbfPushpopActsOnThePreState : Obligations.RbfPushpopActsOnThePreState := by
  refine ⟨fun v => decode_rbf_append 0b011#3 v, fun s v hrun hholds => ?_⟩
  have ⟨hcap, hrd, hwr⟩ := hrun
  have hboth := not_rbfFull_and_rbfEmpty hrd hwr (by omega)
  obtain ⟨head, hhead, hcycle⟩ := exists_rbfCycle_of_headHolds hrun hholds true v
  refine ⟨hboth, _, hcycle, rfl, rbfOutputs_flagPortsShow .., fun hfull => ?full, fun hempty => ?empty,
    fun hfull hempty => ?neither⟩
  case full =>
    have hempty : rbfEmpty s.rbf = false := by simpa [hfull] using hboth
    have hcount : rbfCount s.params.c (popWrites s.params.c s.rbf) = s.params.c - 1 := by
      have hpop := rbfCount_popWrites hrd hwr hempty
      rw [rbfCount_of_rbfFull hrd hwr hfull] at hpop
      omega
    rw [State.setRbf_rbf, State.setRbf_rbfOut, rbfOutputs_pushpop, rbfEdge_pushpop_of_full hfull hempty, hfull,
      hempty]
    exact ⟨rfl, rfl, rfl, hhead hempty, rfl, hcount⟩
  case empty =>
    have hfull : rbfFull s.params.c s.rbf = false := by simpa [hempty] using hboth
    have hcount : rbfCount s.params.c (pushWrites s.params.c s.rbf v) = 1 := by
      rw [rbfCount_pushWrites hrd hwr hfull, rbfCount_of_rbfEmpty hempty]
    rw [State.setRbf_rbf, State.setRbf_rbfOut, rbfOutputs_pushpop, rbfEdge_pushpop_of_empty hfull hempty, hfull,
      hempty]
    exact ⟨rfl, rfl, rfl, rfl, rfl, rfl, memRead_memWrite_self .., fun _ => memRead_memWrite_of_ne _ v, hcount⟩
  case neither =>
    rw [State.setRbf_rbf, State.setRbf_rbfOut, rbfOutputs_pushpop, rbfEdge_pushpop_of_neither hfull hempty, hfull,
      hempty]
    exact ⟨rfl, rfl, rfl, hhead hempty, rfl, rfl, memRead_memWrite_self .., fun _ => memRead_memWrite_of_ne _ v,
      rbfCount_popWrites_pushWrites hrd hwr hfull v⟩

end Sys2Proof.Machine

/-!
# The CODEC (42_codec.md)

Every number the CODEC derives from a byte is a choice on bit 7, and bit 7 says whether the byte is at least 128 (R131).
With both choices written on `u8` (`commandRaw_eq_ite`, `magnitude_eq_ite`) the laws of R132 and R139 are linear
arithmetic on one number below 256. The two operations are one: the CODEC applies the byte that was decoded
(`exec_decode_cmd`, R130).
-/
namespace Sys2Proof.Machine

/-! ### A byte and its halves -/

/-- R131: bit 7 is the sign of the byte. -/
theorem getLsbD_seven_eq_decide (b : Byte) : b.getLsbD 7 = decide (128 ≤ u8 b) := BitVec.msb_eq_decide b

theorem getLsbD_seven_of_down {b : Byte} (h : 128 ≤ u8 b) : b.getLsbD 7 = true := by
  rw [getLsbD_seven_eq_decide, decide_eq_true h]

theorem getLsbD_seven_of_up {b : Byte} (h : u8 b < 128) : b.getLsbD 7 = false := by
  rw [getLsbD_seven_eq_decide, decide_eq_false (Nat.not_le.2 h)]

theorem u8_lt (b : Byte) : u8 b < 256 := b.isLt

/-- The byte `{h, m}` of R133 and R134, read as a number. -/
theorem u8_append (h : BitVec 1) (m : BitVec 7) : u8 (h ++ m) = 128 * h.toNat + m.toNat := by
  rw [u8, BitVec.toNat_append, ← Nat.shiftLeft_add_eq_or_of_lt m.isLt, Nat.shiftLeft_eq, Nat.mul_comm]

/-- Bit 7 and the seven bits below it give the byte back. -/
theorem append_low_seven {b : Byte} {h : BitVec 1} (hsign : b.getLsbD 7 = h.getLsbD 0) :
    h ++ b.extractLsb' 0 7 = b := by
  have htop : b.extractLsb' 7 1 = h := BitVec.eq_of_getLsbD_eq fun i hi => by
    obtain rfl : i = 0 := by omega
    simpa using hsign
  rw [← htop, BitVec.extractLsb'_append_extractLsb'_eq_extractLsb' (by decide)]
  exact BitVec.extractLsb'_eq_self

/-! ### The numbers of a byte (00_scope.md R14, 30_encoding.md R76) -/

theorem commandRaw_eq_ite (b : Byte) : commandRaw b = if 128 ≤ u8 b then (u8 b : Int) - 256 else u8 b := by
  rw [commandRaw, s8, getLsbD_seven_eq_decide]
  by_cases hneg : 128 ≤ u8 b <;> simp [hneg]

theorem magnitude_eq_ite (b : Byte) : magnitude b = if 128 ≤ u8 b then 256 - u8 b else u8 b := by
  simp only [magnitude, getLsbD_seven_eq_decide, decide_eq_true_eq]

theorem directionOf_eq_down {b : Byte} : directionOf b = .down ↔ 128 ≤ u8 b := (codec_laws b).1

/-- R130: the raw value is the two's-complement reading of the byte. -/
theorem commandRaw_eq_toInt (b : Byte) : commandRaw b = b.toInt := by
  rw [commandRaw_eq_ite, BitVec.toInt_eq_toNat_cond, u8]
  split <;> split <;> omega

/-- R131: Down is exactly a negative raw value. -/
theorem commandRaw_neg_iff (b : Byte) : commandRaw b < 0 ↔ 128 ≤ u8 b := by
  have hlt := u8_lt b
  rw [commandRaw_eq_ite]
  split <;> omega

/-- R132: the magnitude is the absolute raw value. -/
theorem magnitude_eq_natAbs (b : Byte) : magnitude b = (commandRaw b).natAbs := by
  have hlt := u8_lt b
  rw [magnitude_eq_ite, commandRaw_eq_ite]
  split <;> omega

/-- R139: no magnitude is above 128, which bounds the duration by 1280. -/
theorem magnitude_le (b : Byte) : magnitude b ≤ 128 := by
  rw [magnitude_eq_ite]
  split <;> omega

/-- R139: 0x80 alone has the magnitude 128. -/
theorem magnitude_eq_128_iff (b : Byte) : magnitude b = 128 ↔ b = 0x80#8 := by
  have hbyte : b = 0x80#8 ↔ u8 b = 128 := BitVec.toNat_inj.symm
  rw [hbyte, magnitude_eq_ite]
  split <;> omega

/-- The duration port holds ten times the magnitude, without loss. -/
theorem codecMs_toNat (b : Byte) : (codecMs b).toNat = 10 * magnitude b := (loadMs_codecMs_toNat b).2

/-! ### The operations (R130, R133, R134) -/

/-- The byte applied by CMD.DOWN, with the whole next state. -/
theorem exec_cmdDown (m : BitVec 7) (s : State) :
    exec (.cmdDown m) s = .next (s.setCodec (codecPorts (0b1#1 ++ m))) := rfl

/-- The byte applied by CMD.UP, with the whole next state. -/
theorem exec_cmdUp (m : BitVec 7) (s : State) :
    exec (.cmdUp m) s = .next (s.setCodec (codecPorts (0b0#1 ++ m))) := rfl

theorem decode_cmd_of_down {b : Byte} (h : 128 ≤ u8 b) : decode (.cmd b) = .cmdDown (b.extractLsb' 0 7) := by
  rw [decode, decodeCmd, if_pos (getLsbD_seven_of_down h)]

theorem decode_cmd_of_up {b : Byte} (h : u8 b < 128) : decode (.cmd b) = .cmdUp (b.extractLsb' 0 7) := by
  rw [decode, decodeCmd, getLsbD_seven_of_up h, if_neg Bool.false_ne_true]

/-- R130: every byte is a command, and its operation applies the byte itself. -/
theorem exec_decode_cmd (b : Byte) (s : State) : exec (decode (.cmd b)) s = .next (s.setCodec (codecPorts b)) := by
  obtain hdown | hup := le_or_gt 128 (u8 b)
  · have hbyte : 0b1#1 ++ b.extractLsb' 0 7 = b := append_low_seven (getLsbD_seven_of_down hdown)
    rw [decode_cmd_of_down hdown, exec_cmdDown, hbyte]
  · have hbyte : 0b0#1 ++ b.extractLsb' 0 7 = b := append_low_seven (getLsbD_seven_of_up hup)
    rw [decode_cmd_of_up hup, exec_cmdUp, hbyte]

/-- The ports of a byte of at least 128, as R134 computes them. -/
theorem codecPorts_of_down {b : Byte} (h : 128 ≤ u8 b) :
    codecPorts b = { b := b, dir := .down, ms := BitVec.ofNat 16 (10 * (256 - u8 b)) } := by
  rw [codecPorts, directionOf_eq_down.2 h, codecMs, durationMs, magnitude_eq_ite, if_pos h]

/-! ### The statements -/

/-- Settles O28: the byte `{1, m}` is at least 128, so its ports are those of R134; its duration is not 0 since `u8` is
below 256. -/
theorem cmdDownGivesItsDuration : Obligations.CmdDownGivesItsDuration := by
  refine ⟨fun m s => ?_, fun b hb => decode_cmd_of_down hb⟩
  have hvalue : u8 (0b1#1 ++ m) = 128 + m.toNat := u8_append 0b1#1 m
  have hdown : 128 ≤ u8 (0b1#1 ++ m) := by omega
  refine ⟨?next, hvalue, ?raw, ?positive⟩
  case next => rw [exec_cmdDown, codecPorts_of_down hdown, State.setCodec]
  case raw => rw [commandRaw_eq_ite, if_pos hdown]
  case positive =>
    have hlt := m.isLt
    simp only [ne_eq, ← BitVec.toNat_inj, BitVec.toNat_ofNat]
    omega

/-- Settles O29: the next state is the byte applied (`exec_decode_cmd`), and each clause is a law of `commandRaw` or
`magnitude`. -/
theorem everyByteIsACommandWithItsDuration : Obligations.EveryByteIsACommandWithItsDuration := by
  intro b s
  have hms := codecMs_toNat b
  refine ⟨_, exec_decode_cmd b s, rfl, rfl, commandRaw_eq_toInt b, ?direction, hms, ?absolute, ?upperBits, ?longest⟩
  case direction => exact directionOf_eq_down.trans (commandRaw_neg_iff b).symm
  case absolute => exact magnitude_eq_natAbs b ▸ hms
  case upperBits =>
    have hle := magnitude_le b
    have hfits : (codecMs b).toNat / 2 ^ 11 = 0 := Nat.div_eq_of_lt (by omega)
    apply BitVec.eq_of_toNat_eq
    rw [State.setCodec_codec, codecPorts, BitVec.extractLsb'_toNat, Nat.shiftRight_eq_div_pow, hfits]
    rfl
  case longest =>
    rw [State.setCodec_codec, codecPorts, hms, ← magnitude_eq_128_iff]
    omega

end Sys2Proof.Machine

/-!
# The controller's cycle without reset (43_dispatch.md R170)

In such a cycle the consumer makes `c` of the controller, and the producer's writes, if a byte is accepted, go on top of
it. `ActiveCycle s c t` says what that leaves: it is proved once of every NOP and SEND (`exists_activeCycle`), and each
of START, COUNT and FINISH is then `ActiveCycle` with its own `c`.

During an actuation the consumer is one function, `actuate`, which reads no register of the queue, so what is in flight
after some words is `actuate` iterated on it and depends on their number alone (R162).
-/
namespace Sys2Proof.Machine

/-! ### The words and the operations -/

/-- The operation of a word given as its two control bits and its byte (30_encoding.md R77). -/
theorem decode_dlcp_append (c : BitVec 2) (v : Byte) :
    decode (.dlcp (c ++ v)) =
      if c.getLsbD 1 then .dlcpReset else if c.getLsbD 0 then .dlcpSend v else .dlcpNop := by
  have hbyte : (c ++ v).extractLsb' 0 8 = v := BitVec.extractLsb'_append_eq_right
  have hreset : (c ++ v : BitVec 10).getLsbD 9 = c.getLsbD 1 := BitVec.getLsbD_append
  have hvalid : (c ++ v : BitVec 10).getLsbD 8 = c.getLsbD 0 := BitVec.getLsbD_append
  rw [decode, decodeDlcp, hreset, hvalid, hbyte]

theorem dlcpActive_decode {w : PortWord} (h : activeDlcpWord w = true) : DlcpActive (decode w) := by
  obtain ⟨hformat, hreset⟩ : w.format = .dlcpCyc ∧ w.isReset = false := by simpa [activeDlcpWord] using h
  cases w with
  | dlcp w =>
    have hbit : ¬w.getLsbD 9 = true := Bool.eq_false_iff.1 hreset
    rw [decode, decodeDlcp, if_neg hbit]
    split
    · exact .inr ⟨_, rfl⟩
    · exact .inl rfl
  | rbf | idx | cmd => exact nomatch hformat

/-- An operation that is not a reset is the cycle rule with `rst = 0`. -/
theorem DlcpActive.exec_eq {i : Instr} (h : DlcpActive i) :
    ∃ rxValid rxByte, ∀ s, exec i s = dlcpCycle false rxValid rxByte s := by
  obtain rfl | ⟨v, rfl⟩ := h
  · exact ⟨false, 0x00#8, fun _ => rfl⟩
  · exact ⟨true, v, fun _ => rfl⟩

/-- Every cycle of the controller, a reset cycle too, shows the levels of its pre-state (10_state.md R31). -/
theorem levels_of_exec {i : Instr} {s t : State} (hi : DlcpActive i ∨ i = .dlcpReset) (h : exec i s = .next t) :
    t.dlcpOut.up = upLevel s.dlcp ∧ t.dlcpOut.down = downLevel s.dlcp ∧ t.dlcpOut.status = statusLevel s.dlcp := by
  obtain ⟨rst, rxValid, rxByte, hcycle⟩ : ∃ rst rxValid rxByte, dlcpCycle rst rxValid rxByte s = .next t := by
    obtain hactive | rfl := hi
    · obtain ⟨rxValid, rxByte, hexec⟩ := hactive.exec_eq
      exact ⟨false, rxValid, rxByte, hexec s ▸ h⟩
    · exact ⟨true, false, 0x00#8, h⟩
  obtain ⟨_, d, _, rfl⟩ := dlcpCycle_eq_next.1 hcycle
  exact ⟨rfl, rfl, rfl⟩

/-! ### The consumer -/

/-- The consumer leaves the storage and `wr` to the producer (10_state.md R24). -/
theorem mem_wr_of_consume {p : Params} {d c : Dlcp} (h : consume p d = .next c) :
    c.queue.mem = d.queue.mem ∧ c.queue.wr = d.queue.wr := by
  obtain hsame | ⟨hpop, _⟩ := consume_queue_cases h
  · rw [hsame]; exact ⟨rfl, rfl⟩
  · rw [hpop]; exact ⟨rfl, rfl⟩

/-- The consumer acts in every state in which a START would read a byte. -/
theorem exists_consume {s : State} (h : DlcpCanRun s) : ∃ c, consume s.params s.dlcp = .next c := by
  obtain ⟨_, hholds⟩ := h
  simp only [consume_eq_next]
  cases hst : s.dlcp.st with
  | act =>
    by_cases hms : s.dlcp.msLeft = 0#11
    · exact ⟨_, .inr (.inl ⟨rfl, hms, rfl⟩)⟩
    · exact ⟨_, .inr (.inr (.inl ⟨rfl, hms, rfl⟩))⟩
  | idle =>
    cases hempty : rbfEmpty s.dlcp.queue with
    | true => exact ⟨_, .inr (.inr (.inr ⟨rfl, rfl, rfl⟩))⟩
    | false =>
      have hne : s.dlcp.queue.rd ≠ s.dlcp.queue.wr := by simpa [rbfEmpty] using hempty
      obtain ⟨b, hb⟩ := Option.isSome_iff_exists.1 (hholds hst hne)
      exact ⟨_, .inl ⟨rfl, rfl, b, hb, rfl⟩⟩

/-- COUNT at the last value of the prescaler (R154). -/
theorem countCycle_of_last {k : Nat} {d : Dlcp} (h : d.sub = k - 1) :
    countCycle k d = { d with sub := 0, msLeft := d.msLeft - 1#11 } := if_pos h

/-- COUNT at any other value of the prescaler (R154). -/
theorem countCycle_of_not_last {k : Nat} {d : Dlcp} (h : d.sub ≠ k - 1) :
    countCycle k d = { d with sub := d.sub + 1 } := if_neg h

theorem toNat_sub_one_add_one {m : BitVec 11} (h : m ≠ 0#11) : (m - 1#11).toNat + 1 = m.toNat := by bv_omega

/-- What the consumer does in ACT: FINISH or COUNT (R154, R155). -/
def actuate (k : Nat) (d : Dlcp) : Dlcp := if d.msLeft = 0#11 then finishCycle d else countCycle k d

theorem actuate_of_elapsed {k : Nat} {d : Dlcp} (h : d.msLeft = 0#11) : actuate k d = finishCycle d := if_pos h

theorem actuate_of_running {k : Nat} {d : Dlcp} (h : d.msLeft ≠ 0#11) : actuate k d = countCycle k d := if_neg h

theorem consume_of_act {p : Params} {d : Dlcp} (h : d.st = .act) : consume p d = .next (actuate p.k d) := by
  rw [consume_eq_next]
  by_cases hms : d.msLeft = 0#11
  · exact .inr (.inl ⟨h, hms, actuate_of_elapsed hms⟩)
  · exact .inr (.inr (.inl ⟨h, hms, actuate_of_running hms⟩))

theorem consume_of_start {p : Params} {d : Dlcp} {b : Byte} (hst : d.st = .idle) (hne : d.queue.rd ≠ d.queue.wr)
    (hb : memRead d.queue.mem d.queue.rd = some b) : consume p d = .next (startWith p.n d b) :=
  consume_eq_next.2 (.inl ⟨hst, by simp [rbfEmpty, hne], b, hb, rfl⟩)

/-! ### What is in flight -/

/-- The controller's registers without its queue: the queue is blanked. -/
def Dlcp.inFlight (d : Dlcp) : Dlcp := { d with queue := { mem := [], rd := 0, wr := 0 } }

/-- Two controllers agree on what is in flight when they agree on these five registers. -/
theorem inFlight_eq_inFlight {d e : Dlcp} :
    d.inFlight = e.inFlight ↔
      d.st = e.st ∧ d.curRaw = e.curRaw ∧ d.curDir = e.curDir ∧ d.msLeft = e.msLeft ∧ d.sub = e.sub := by
  simp [Dlcp.inFlight]

/-- An actuation reads nothing of the queue. -/
theorem actuate_inFlight (k : Nat) (d : Dlcp) : actuate k d.inFlight = (actuate k d).inFlight := by
  by_cases hms : d.msLeft = 0#11
  · rw [actuate_of_elapsed hms, actuate_of_elapsed (d := d.inFlight) hms]; rfl
  · rw [actuate_of_running hms, actuate_of_running (d := d.inFlight) hms]
    by_cases hsub : d.sub = k - 1
    · rw [countCycle_of_last hsub, countCycle_of_last (d := d.inFlight) hsub]; rfl
    · rw [countCycle_of_not_last hsub, countCycle_of_not_last (d := d.inFlight) hsub]; rfl

/-! ### What a cycle leaves -/

/-- The cycle of `s` in which the consumer makes `c` of the controller ends in `t` (R170). -/
structure ActiveCycle (s : State) (c : Dlcp) (t : State) : Prop where
  frame : t = { s with dlcp := t.dlcp, dlcpOut := t.dlcpOut }
  producer : ProducerFrame s t
  inFlight : t.dlcp.inFlight = c.inFlight
  rd : t.dlcp.queue.rd = c.queue.rd
  queue :
    (t.dlcpOut.rxOk = false ∧ t.dlcp.queue = c.queue) ∨
      (t.dlcpOut.rxOk = true ∧ rbfFull s.params.n s.dlcp.queue = false ∧
        ∃ v, t.dlcp.queue = { pushWrites s.params.n s.dlcp.queue v with rd := c.queue.rd })

/-- A push succeeds into a free slot alone (41_ring_buffer.md R114). -/
theorem not_rbfFull_of_pushOk {cap : Nat} {q : Rbf} {rst push : Bool} (h : pushOk cap q rst push = true) :
    rbfFull cap q = false := by
  simp only [pushOk, Bool.and_eq_true, Bool.not_eq_true'] at h
  exact h.2

/-- A NOP or SEND in range ends as the consumer's action says. -/
theorem exists_activeCycle {i : Instr} {s : State} {c : Dlcp} (hi : DlcpActive i) (hrange : DlcpInRange s)
    (hc : consume s.params s.dlcp = .next c) : ∃ t, exec i s = .next t ∧ ActiveCycle s c t := by
  obtain ⟨rxValid, v, hexec⟩ := hi.exec_eq
  obtain ⟨hmem, hwr⟩ := mem_wr_of_consume hc
  have hedge : dlcpEdge s.params s.dlcp false rxValid v = .next _ := dlcpEdge_eq_next.2 (.inr ⟨rfl, c, hc, rfl⟩)
  refine ⟨_, (hexec s).trans (dlcpCycle_eq_next.2 ⟨dlcpReady_eq_next.2 hrange, _, hedge, rfl⟩), ?_⟩
  cases hok : pushOk s.params.n s.dlcp.queue false rxValid with
  | false =>
    exact
      { frame := rfl
        producer := ⟨fun a _ => congrArg (memRead · a) hmem, fun _ => ⟨hmem, hwr⟩⟩
        inFlight := rfl
        rd := rfl
        queue := .inl ⟨hok, rfl⟩ }
  | true =>
    exact
      { frame := rfl
        producer := ⟨fun a hne => memRead_memWrite_of_ne _ v hne, fun hrefused => nomatch hok.symm.trans hrefused⟩
        inFlight := rfl
        rd := rfl
        queue := .inr ⟨hok, not_rbfFull_of_pushOk hok, v, rfl⟩ }

section
variable {s t : State} {c : Dlcp} (h : ActiveCycle s c t)
include h

theorem ActiveCycle.params : t.params = s.params := by rw [h.frame]

/-- The registers beside the queue are those the consumer leaves. -/
theorem ActiveCycle.registers :
    t.dlcp.st = c.st ∧ t.dlcp.curRaw = c.curRaw ∧ t.dlcp.curDir = c.curDir ∧ t.dlcp.msLeft = c.msLeft ∧
      t.dlcp.sub = c.sub := inFlight_eq_inFlight.1 h.inFlight

end

/-- Settles O33: the push of a cycle with `rx_valid = 0` is not requested, so the edge is the consumer's action alone. -/
theorem nopLeavesTheProducerAtRest : Obligations.NopLeavesTheProducerAtRest := by
  refine ⟨fun s hrun => ?cycle, fun v => ?word⟩
  case word => exact decode_dlcp_append 0b00#2 v
  case cycle =>
    obtain ⟨c, hc⟩ := exists_consume hrun
    obtain ⟨hmem, hwr⟩ := mem_wr_of_consume hc
    have hexec : exec .dlcpNop s = .next (s.setDlcp c (dlcpOutputs s.params.n s.dlcp false false)) :=
      dlcpCycle_eq_next.2 ⟨dlcpReady_eq_next.2 hrun.1, c, dlcpEdge_eq_next.2 (.inr ⟨rfl, c, hc, rfl⟩), rfl⟩
    exact ⟨_, hexec, rfl, rfl, rfl, hmem, hwr, fun a => congrArg (memRead · a) hmem, hc⟩

/-! ### START -/

section
variable {cap : Nat} {q : Rbf} (hrd : q.rd < slots cap) (hwr : q.wr < slots cap)
include hrd hwr

theorem rbfEmpty_iff_rbfCount : rbfEmpty q = true ↔ rbfCount cap q = 0 := by
  rw [rbfEmpty_eq_true, rbfCount_eq_ite hrd hwr]
  split <;> omega

theorem rbfCount_le : rbfCount cap q ≤ cap := by
  rw [rbfCount_eq_ite hrd hwr]
  unfold slots at *
  split <;> omega

/-- A queue that has given up a byte has room (R153, R241). -/
theorem rbfFull_popWrites (h : rbfEmpty q = false) : rbfFull cap (popWrites cap q) = false := by
  by_contra hfull
  have hcap := rbfCount_of_rbfFull (q := popWrites cap q) (wrapNext_lt (slots_pos cap) q.rd) hwr
    (eq_true_of_ne_false hfull)
  have hpop := rbfCount_popWrites hrd hwr h
  have hle := rbfCount_le hrd hwr
  omega

end

/-- Settles O34: the consumer's `startWith` in `ActiveCycle`; the flags follow the count, which START lowers by one and an
accepted byte raises by one. -/
theorem startTakesTheOldestByteIntoFlight : Obligations.StartTakesTheOldestByteIntoFlight := by
  intro i s b hi hrange hst hne hb
  have ⟨_, _, hrd, hwr, _⟩ := hrange
  obtain ⟨t, hexec, ht⟩ := exists_activeCycle hi hrange (consume_of_start hst hne hb)
  have hsome : rbfEmpty s.dlcp.queue = false := by simp [rbfEmpty, hne]
  obtain ⟨hact, hraw, hdir, hleft, hsub⟩ := ht.registers
  have hload : t.dlcp.msLeft.toNat = durationMs b := hleft ▸ (loadMs_codecMs_toNat b).1
  refine ⟨t, hexec, ht.frame, ht.producer, ht.rd, hact, hraw, hdir, hload, hsub, ?flags⟩
  case flags =>
    have hpop := rbfCount_popWrites hrd hwr hsome
    have hrd' := wrapNext_lt (slots_pos s.params.n) s.dlcp.queue.rd
    obtain ⟨hrefused, hqueue⟩ | ⟨haccepted, hfree, v, hqueue⟩ := ht.queue
    · rw [hqueue, startWith_queue, hrefused, rbfEmpty_iff_rbfCount (q := popWrites s.params.n _) hrd' hwr]
      exact ⟨fun _ => rbfFull_popWrites hrd hwr hsome, by simp only [and_true]; omega⟩
    · have hboth : t.dlcp.queue = popWrites s.params.n (pushWrites s.params.n s.dlcp.queue v) := hqueue
      have hkept := rbfCount_popWrites_pushWrites hrd hwr hfree v
      have hwr' := wrapNext_lt (slots_pos s.params.n) s.dlcp.queue.wr
      rw [hboth, hfree, haccepted, rbfEmpty_iff_rbfCount hrd' hwr', hkept]
      exact ⟨nofun, by simp only [Bool.true_eq_false, and_false, iff_false]; omega⟩

/-! ### COUNT and FINISH -/

/-- Settles O35: the consumer's `countCycle` in `ActiveCycle`, by its two equations. -/
theorem countElapsesOneClockCycle : Obligations.CountElapsesOneClockCycle := by
  intro i s hi hrange hst hms
  obtain ⟨t, hexec, ht⟩ := exists_activeCycle hi hrange (consume_of_act hst)
  rw [actuate_of_running hms] at ht
  have hrd := ht.rd
  obtain ⟨hact, hraw, hdir, hleft, hsub⟩ := ht.registers
  rw [countCycle_queue] at hrd
  rw [countCycle_st] at hact
  rw [countCycle_curRaw] at hraw
  rw [countCycle_curDir] at hdir
  refine ⟨t, hexec, ht.frame, ht.producer, hrd, hact.trans hst, hraw, hdir, fun hlast => ?last,
    fun hearlier => ?earlier⟩
  case last =>
    rw [hsub, hleft, countCycle_of_last hlast]
    exact ⟨rfl, toNat_sub_one_add_one hms⟩
  case earlier =>
    rw [hsub, hleft, countCycle_of_not_last hearlier]
    exact ⟨rfl, rfl⟩

/-- The outputs of a controller in IDLE are at rest (10_state.md R31). -/
theorem levels_of_idle {d : Dlcp} (h : d.st = .idle) :
    upLevel d = false ∧ downLevel d = false ∧ statusLevel d = true := by
  simp [upLevel, downLevel, statusLevel, h]

/-- Settles O36: the consumer's `finishCycle` in `ActiveCycle`; the next cycle shows the levels of IDLE. -/
theorem finishReturnsTheOutputsToRest : Obligations.FinishReturnsTheOutputsToRest := by
  intro i j s hi hj hrange hst hms
  obtain ⟨t, hexec, ht⟩ := exists_activeCycle hi hrange (consume_of_act hst)
  rw [actuate_of_elapsed hms] at ht
  obtain ⟨hidle, hraw, hdir, hleft, hsub⟩ := ht.registers
  refine ⟨t, hexec, ht.frame, ht.producer, ht.rd, hidle, hraw, hdir, hleft, hsub, fun u hu => ?_⟩
  obtain ⟨hup, hdown, hstatus⟩ := levels_of_exec hj hu
  obtain ⟨hup0, hdown0, hstatus1⟩ := levels_of_idle hidle
  exact ⟨hup.trans hup0, hdown.trans hdown0, hstatus.trans hstatus1⟩

/-! ### A whole actuation -/

/-- The cycles before the FINISH, without the case of `ms_left = 0`. -/
theorem remainingCycles_eq_sub (k : Nat) (d : Dlcp) : remainingCycles k d = d.msLeft.toNat * k - d.sub := by
  unfold remainingCycles
  split
  · simp [*]
  · rfl

/-- A COUNT uses up one of the remaining cycles (R154, R159). -/
theorem remainingCycles_countCycle {k : Nat} {d : Dlcp} (hms : d.msLeft ≠ 0#11) (hsub : d.sub < k) :
    remainingCycles k (countCycle k d) + 1 = remainingCycles k d := by
  obtain ⟨m, hm⟩ : ∃ m, d.msLeft.toNat = m + 1 := ⟨_, (toNat_sub_one_add_one hms).symm⟩
  simp only [remainingCycles_eq_sub]
  by_cases hlast : d.sub = k - 1
  · have hdown := toNat_sub_one_add_one hms
    have hm' : (d.msLeft - 1#11).toNat = m := by omega
    simp only [countCycle_of_last hlast, hm', hm, Nat.add_mul]
    omega
  · simp only [countCycle_of_not_last hlast, hm, Nat.add_mul]
    omega

/-- COUNT keeps the ranges of `ms_left` and `sub` (10_state.md R29). -/
theorem countCycle_ranges {k : Nat} {d : Dlcp} (hms : d.msLeft ≠ 0#11) (hsub : d.sub < k) :
    (countCycle k d).msLeft.toNat ≤ d.msLeft.toNat ∧ (countCycle k d).sub < k := by
  by_cases hlast : d.sub = k - 1
  · have hdown := toNat_sub_one_add_one hms
    simp only [countCycle_of_last hlast]
    omega
  · simp only [countCycle_of_not_last hlast]
    omega

/-- After a COUNT the controller is again in range. -/
theorem ActiveCycle.inRange_of_count {s t : State} (h : ActiveCycle s (countCycle s.params.k s.dlcp) t)
    (hrange : DlcpInRange s) (hst : s.dlcp.st = .act) (hms : s.dlcp.msLeft ≠ 0#11) : DlcpInRange t := by
  obtain ⟨hn, hk, hrd, hwr, hle, hlt⟩ := hrange
  obtain ⟨_, _, _, hleft, hsub⟩ := h.registers
  obtain ⟨hfalls, hsub'⟩ := countCycle_ranges hms hlt
  have hwr' : t.dlcp.queue.wr < slots s.params.n := by
    obtain ⟨_, hqueue⟩ | ⟨_, _, v, hqueue⟩ := h.queue
    · rw [hqueue, countCycle_queue]; exact hwr
    · rw [hqueue]; exact wrapNext_lt (slots_pos _) _
  rw [DlcpInRange, h.params, h.rd, hleft, hsub, countCycle_queue]
  exact ⟨hn, hk, hrd, hwr', fun _ => hfalls.trans (hle hst), hsub'⟩

/-- Until the FINISH, what is in flight is `actuate` once per word, whatever the words carry (R162). -/
theorem driveWords_of_act {s : State} {ws : List PortWord} (hrange : DlcpInRange s) (hst : s.dlcp.st = .act)
    (hws : ∀ x ∈ ws, activeDlcpWord x = true) (hlen : ws.length ≤ remainingCycles s.params.k s.dlcp + 1) :
    ∃ t, driveWords ws s = .next t ∧ t.dlcp.inFlight = (actuate s.params.k)^[ws.length] s.dlcp.inFlight := by
  induction ws generalizing s with
  | nil => exact ⟨s, rfl, rfl⟩
  | cons w ws ih =>
    obtain ⟨hw, hws⟩ := List.forall_mem_cons.1 hws
    obtain ⟨t, hexec, ht⟩ := exists_activeCycle (dlcpActive_decode hw) hrange (consume_of_act hst)
    rw [driveWords_cons, hexec, andThen_next, List.length_cons, Function.iterate_succ_apply, actuate_inFlight,
      ← ht.inFlight]
    rw [List.length_cons] at hlen
    by_cases hms : s.dlcp.msLeft = 0#11
    · have hnone : remainingCycles s.params.k s.dlcp = 0 := if_pos hms
      obtain rfl : ws = [] := List.eq_nil_of_length_eq_zero (by omega)
      exact ⟨t, rfl, rfl⟩
    · rw [actuate_of_running hms] at ht
      have ⟨_, _, _, _, _, hlt⟩ := hrange
      obtain ⟨hact, _, _, hleft, hsub⟩ := ht.registers
      have hremain : remainingCycles s.params.k t.dlcp + 1 = remainingCycles s.params.k s.dlcp := by
        rw [remainingCycles, hleft, hsub]
        exact remainingCycles_countCycle hms hlt
      rw [← ht.params] at hremain hlen ⊢
      exact ih (ht.inRange_of_count hrange hst hms) (hact.trans ((countCycle_st ..).trans hst)) hws (by omega)

/-- The direction is that of the start. -/
theorem actuate_iterate_curDir (k n : Nat) (d : Dlcp) : ((actuate k)^[n] d).curDir = d.curDir := by
  induction n generalizing d with
  | zero => rfl
  | succ n ih =>
    rw [Function.iterate_succ_apply, ih]
    by_cases hms : d.msLeft = 0#11
    · rw [actuate_of_elapsed hms, finishCycle_curDir]
    · rw [actuate_of_running hms, countCycle_curDir]

/-- The cycle after the remaining ones is the FINISH (R159). -/
theorem actuate_iterate_st {k n : Nat} {d : Dlcp} (hst : d.st = .act) (hsub : d.sub < k)
    (hn : n ≤ remainingCycles k d + 1) : ((actuate k)^[n] d).st = .act ↔ n ≤ remainingCycles k d := by
  induction n generalizing d with
  | zero => simp [hst]
  | succ n ih =>
    rw [Function.iterate_succ_apply]
    by_cases hms : d.msLeft = 0#11
    · have hnone : remainingCycles k d = 0 := if_pos hms
      obtain rfl : n = 0 := by omega
      simp [actuate_of_elapsed hms, hnone]
    · have hremain := remainingCycles_countCycle hms hsub
      have hsub' := (countCycle_ranges hms hsub).2
      rw [actuate_of_running hms, ih ((countCycle_st ..).trans hst) hsub' (by omega)]
      omega

theorem dlcpInRange_of_goodState {s : State} (h : GoodState s) : DlcpInRange s := by
  obtain ⟨hwf, ⟨⟨_, _, hrd, hwr, _⟩, hms, hsub⟩, _⟩ := h
  simp only [Params.wf, Bool.and_eq_true, decide_eq_true_eq] at hwf
  obtain ⟨⟨⟨_, hn⟩, hk⟩, _⟩ := hwf
  exact ⟨hn, hk, hrd, hwr, fun _ => hms, hsub⟩

/-- Settles O45: by `driveWords_of_act` the two runs leave the same in flight, since they are equally long. -/
theorem noInputButResetTouchesAnActuation : Obligations.NoInputButResetTouchesAnActuation := by
  intro s ws vs hgood hst hws hvs hsame hlen
  have hrange := dlcpInRange_of_goodState hgood
  have ⟨_, _, _, _, _, hsub⟩ := hrange
  obtain ⟨t, hrunT, ht⟩ := driveWords_of_act hrange hst hws hlen
  obtain ⟨u, hrunU, hu⟩ := driveWords_of_act hrange hst hvs (hsame ▸ hlen)
  have hequal : t.dlcp.inFlight = u.dlcp.inFlight := by rw [ht, hu, hsame]
  have hdir : t.dlcp.inFlight.curDir = s.dlcp.inFlight.curDir := ht ▸ actuate_iterate_curDir ..
  have hend : t.dlcp.inFlight.st = .act ↔ ws.length ≤ remainingCycles s.params.k s.dlcp :=
    ht ▸ actuate_iterate_st (d := s.dlcp.inFlight) hst hsub hlen
  obtain ⟨hst', hraw', hdir', hleft', hsub'⟩ := inFlight_eq_inFlight.1 hequal
  exact ⟨t, u, hrunT, hrunU, hst', hraw', hdir', hleft', hsub', hdir, hend⟩

end Sys2Proof.Machine

/-!
# Reset cycles (70_reset_and_hazards.md R230, R236)

Each clocked block's reset is its cycle rule with `rst = 1`. That of the controller reads no slot, so it runs from every
state in range (`exec_dlcpReset`); those of the RBF and the IDX are read off their cycles in range.
-/
namespace Sys2Proof.Machine

/-- A reset cycle of a controller in range, with the whole next state. -/
theorem exec_dlcpReset {s : State} (h : DlcpInRange s) :
    exec .dlcpReset s =
      .next (s.setDlcp (dlcpResetRegs s.dlcp) (dlcpOutputs s.params.n s.dlcp true false)) :=
  dlcpCycle_eq_next.2 ⟨dlcpReady_eq_next.2 h, _, dlcpEdge_eq_next.2 (.inl ⟨rfl, rfl⟩), rfl⟩

/-- R77 to R79, R236: the `rst` bit is looked at first, so nothing else in the word matters; the CODEC has no such
bit. -/
theorem decode_of_isReset {w : PortWord} (h : w.isReset = true) :
    decode w = .dlcpReset ∨ decode w = .rbfReset ∨ decode w = .idxReset := by
  cases w with
  | dlcp w => exact .inl (if_pos h)
  | rbf w => exact .inr (.inl (if_pos h))
  | idx w => exact .inr (.inr (if_pos h))
  | cmd b => exact nomatch h

/-- Settles O49: the reset cycle of each block from every state in which it runs, and the words that select one. -/
theorem resetCyclesSetTheResetValues : Obligations.ResetCyclesSetTheResetValues := by
  refine ⟨fun s hrange => ?dlcp, fun s hrun => ?rbf, fun s hrun => ?idx, fun w hw => decode_of_isReset hw⟩
  case dlcp => exact ⟨_, exec_dlcpReset hrange, rfl, fun _ => rfl, rfl, rfl⟩
  case rbf => exact ⟨_, rbfCycle_of_popValid_eq_false hrun (push := false) (pop := false) rfl 0x00#8, rfl⟩
  case idx => exact ⟨_, idxCycle_of_idxCanRun hrun true false, rfl⟩

end Sys2Proof.Machine

/-!
# A SEND on a full queue (70_reset_and_hazards.md R241)

A SEND is decided by the pre-state's `full` (`exec_dlcpSend_of_full`, `exec_dlcpSend_of_free`). A queue with `full = 1`
is not empty, so an idle controller starts and gives up the head's slot in the very cycle that refuses the byte; in the
next cycle the actuation leaves the queue to the producer, whose push puts one byte behind the live ones
(`liveBytes_pushWrites`).
-/
namespace Sys2Proof.Machine

/-! ### The live slots (41_ring_buffer.md R124) -/

/-- The slot at `rd` of an RBF that is not empty is live, so it holds a byte (10_state.md R26). -/
theorem exists_head_of_rbfInv {cap : Nat} {q : Rbf} (h : RbfInv cap q) (hsome : rbfEmpty q = false) :
    ∃ b, memRead q.mem q.rd = some b := by
  obtain ⟨_, _, hrd, hwr, hlive⟩ := h
  have hcount : 0 < rbfCount cap q := by
    rw [Nat.pos_iff_ne_zero, ne_eq, ← rbfEmpty_iff_rbfCount hrd hwr, hsome]
    exact Bool.false_ne_true
  have hhead := hlive 0 hcount
  rw [Nat.add_zero, Nat.mod_eq_of_lt hrd] at hhead
  exact Option.isSome_iff_exists.1 hhead

section
variable {cap : Nat} {q : Rbf} (hrd : q.rd < slots cap) (hwr : q.wr < slots cap)
include hrd hwr

/-- `wr` is the first slot behind the live ones. -/
theorem slot_rbfCount : (q.rd + rbfCount cap q) % slots cap = q.wr := by
  have hle : rbfCount cap q ≤ slots cap := (rbfCount_le hrd hwr).trans (Nat.le_succ cap)
  rw [slot_add_mod hrd hle, rbfCount_eq_ite hrd hwr]
  split_ifs <;> omega

/-- No live slot is the one at `wr`. -/
theorem slot_ne_wr {j : Nat} (hj : j < rbfCount cap q) : (q.rd + j) % slots cap ≠ q.wr := by
  have hle : j ≤ slots cap := hj.le.trans ((rbfCount_le hrd hwr).trans (Nat.le_succ cap))
  rw [rbfCount_eq_ite hrd hwr] at hj
  rw [slot_add_mod hrd hle]
  split_ifs at hj ⊢ <;> omega

/-- A push into a free slot puts its byte behind the live ones (R113, R124). -/
theorem liveBytes_pushWrites (hfree : rbfFull cap q = false) (v : Byte) :
    liveBytes cap (pushWrites cap q v) = liveBytes cap q ++ [v] := by
  have hold : ∀ j ∈ List.range (rbfCount cap q),
      memRead (memWrite q.mem q.wr v) ((q.rd + j) % slots cap) = memRead q.mem ((q.rd + j) % slots cap) :=
    fun j hj => memRead_memWrite_of_ne _ v (slot_ne_wr hrd hwr (List.mem_range.1 hj))
  rw [liveBytes, rbfCount_pushWrites hrd hwr hfree, pushWrites_mem, pushWrites_rd, List.range_succ,
    List.filterMap_append, List.filterMap_congr hold, ← liveBytes]
  simp [slot_rbfCount hrd hwr]

end

/-! ### SEND (43_dispatch.md R150) -/

section
variable {s : State} {c : Dlcp} (hrange : DlcpInRange s) (hc : consume s.params s.dlcp = .next c)
include hrange hc

/-- A SEND on a full queue leaves what the consumer makes of the controller. -/
theorem exec_dlcpSend_of_full (hfull : rbfFull s.params.n s.dlcp.queue = true) (v : Byte) :
    exec (.dlcpSend v) s = .next (s.setDlcp c (dlcpOutputs s.params.n s.dlcp false true)) :=
  dlcpCycle_eq_next.2 ⟨dlcpReady_eq_next.2 hrange, c, dlcpEdge_eq_next.2 (.inr ⟨rfl, c, hc, by simp [hfull]⟩), rfl⟩

/-- A SEND on a queue with a free slot puts the producer's writes on top of that. -/
theorem exec_dlcpSend_of_free (hfree : rbfFull s.params.n s.dlcp.queue = false) (v : Byte) :
    exec (.dlcpSend v) s =
      .next (s.setDlcp (produce s.params.n s.dlcp v c) (dlcpOutputs s.params.n s.dlcp false true)) :=
  dlcpCycle_eq_next.2 ⟨dlcpReady_eq_next.2 hrange, _, dlcpEdge_eq_next.2 (.inr ⟨rfl, c, hc, by simp [hfree]⟩), rfl⟩

end

/-- An actuation leaves the queue alone (R154, R155). -/
theorem actuate_queue (k : Nat) (d : Dlcp) : (actuate k d).queue = d.queue := by
  by_cases hms : d.msLeft = 0#11
  · rw [actuate_of_elapsed hms, finishCycle_queue]
  · rw [actuate_of_running hms, countCycle_queue]

/-- During an actuation the queue sees the producer's push alone. -/
theorem produce_actuate_queue (n k : Nat) (d : Dlcp) (v : Byte) :
    (produce n d v (actuate k d)).queue = pushWrites n d.queue v := by
  rw [produce, actuate_queue, pushWrites]

/-- A START leaves the controller in range: it loads at most 1280 ms (10_state.md R29). -/
theorem dlcpInRange_startWith {s : State} (h : DlcpInRange s) (b : Byte) (out : DlcpOut) :
    DlcpInRange (s.setDlcp (startWith s.params.n s.dlcp b) out) := by
  obtain ⟨hn, hk, _, hwr, _, _⟩ := h
  have hload : (loadMs b).toNat ≤ 1280 := by
    have hle := magnitude_le b
    rw [(loadMs_codecMs_toNat b).1, durationMs]
    omega
  exact ⟨hn, hk, wrapNext_lt (slots_pos _) _, hwr, fun _ => hload, hk⟩

/-- Settles O41: the first SEND meets `full = 1` and leaves the consumer's START, which makes room; the second meets
`full = 0`. -/
theorem slotFreedByStartIsUsableFromTheNextCycle : Obligations.SlotFreedByStartIsUsableFromTheNextCycle := by
  intro s v w hgood hidle hfull
  have hrange := dlcpInRange_of_goodState hgood
  have ⟨hn, _, hrd, hwr, _⟩ := hrange
  obtain ⟨_, ⟨hinv, _⟩, _⟩ := hgood
  have hsome : rbfEmpty s.dlcp.queue = false := by
    simpa [hfull] using not_rbfFull_and_rbfEmpty hrd hwr (Nat.one_le_of_lt hn)
  have hne : s.dlcp.queue.rd ≠ s.dlcp.queue.wr := by simpa [rbfEmpty] using hsome
  obtain ⟨b, hb⟩ := exists_head_of_rbfInv hinv hsome
  have hfirst := exec_dlcpSend_of_full hrange (consume_of_start hidle hne hb) hfull v
  have hfree := rbfFull_popWrites hrd hwr hsome
  have hsecond := fun out =>
    exec_dlcpSend_of_free (dlcpInRange_startWith hrange b out) (consume_of_act rfl) hfree w
  refine ⟨_, _, hfirst, ?refused, rfl, hb, rfl, ?pending, hsecond _, ?accepted, ?newest⟩
  case refused => exact (pushFull_request ..).trans hfull
  case pending =>
    have hpop := rbfCount_popWrites hrd hwr hsome
    rw [rbfCount_of_rbfFull hrd hwr hfull] at hpop
    exact Nat.eq_sub_of_add_eq hpop
  case accepted => exact (pushOk_request ..).trans (congrArg not hfree)
  case newest =>
    rw [State.setDlcp_dlcp, produce_actuate_queue]
    exact liveBytes_pushWrites (q := popWrites ..) (wrapNext_lt (slots_pos _) _) hwr hfree w

end Sys2Proof.Machine

/-!
# Words, bytes and the opcode table (30_encoding.md)

A word of the controller or of the RBF is its control bits followed by a byte, a byte on the CODEC its sign followed by
seven bits (`exists_append`). The control bits select the row and the operation, so the laws of decoding are a finite
fact about them, with the byte carried along (`bits_and_control`, `bits_and_operand`).
-/
namespace Sys2Proof.Machine

/-! ### Decoding an encoded operation -/

/-- The encoder writes what the decoder reads. -/
theorem decode_encode (i : Instr) : decode (encode i) = i := by
  cases i with
  | dlcpNop | dlcpReset | rbfNop | rbfPop | rbfReset | idxHold | idxAdv | idxReset => rfl
  | dlcpSend v => exact decode_dlcp_append 0b01#2 v
  | rbfPush v => exact decode_rbf_append 0b010#3 v
  | rbfPushpop v => exact decode_rbf_append 0b011#3 v
  | cmdUp m =>
    have hup : u8 (0b0#1 ++ m) < 128 := (u8_append 0b0#1 m).trans_lt (by simpa using m.isLt)
    have hlow : (0b0#1 ++ m).extractLsb' 0 7 = m := BitVec.extractLsb'_append_eq_right
    exact (decode_cmd_of_up hup).trans (congrArg Instr.cmdUp hlow)
  | cmdDown m =>
    have hdown : 128 ≤ u8 (0b1#1 ++ m) := (Nat.le_add_right 128 _).trans (u8_append 0b1#1 m).ge
    have hlow : (0b1#1 ++ m).extractLsb' 0 7 = m := BitVec.extractLsb'_append_eq_right
    exact (decode_cmd_of_down hdown).trans (congrArg Instr.cmdDown hlow)

/-! ### Words as numbers and as bytes (R70; log entry 5) -/

theorem portWord_bits_lt (w : PortWord) : w.bits < 2 ^ w.format.width := by
  cases w with
  | dlcp w | rbf w | idx w | cmd w => exact w.isLt

theorem wordOfBits_bits (w : PortWord) : wordOfBits w.format w.bits = .ok w := by
  unfold wordOfBits
  rw [Format.fits, if_pos (decide_eq_true (portWord_bits_lt w))]
  cases w with
  | dlcp w | rbf w | idx w | cmd w => simp [PortWord.format, PortWord.bits]

theorem wordOfBits_of_wide {f : Format} {n : Nat} (h : 2 ^ f.width ≤ n) : wordOfBits f n = .error (.tooWide f) :=
  if_neg (ne_true_of_eq_false (decide_eq_false (Nat.not_lt.2 h)))

theorem length_bytesOfBits (len n : Nat) : (bytesOfBits len n).length = len := by simp [bytesOfBits]

/-- The first byte holds bits 7..0, the others what is left. -/
theorem bytesOfBits_succ (len n : Nat) :
    bytesOfBits (len + 1) n = BitVec.ofNat 8 n :: bytesOfBits len (n / 256) := by
  have hshift : ∀ i, n / 256 ^ (i + 1) = n / 256 / 256 ^ i := fun i => by rw [Nat.div_div_eq_div_mul, Nat.pow_succ']
  simp [bytesOfBits, List.range_succ_eq_map, Function.comp_def, hshift]

/-- The bytes of a number stand for it, as far as they reach. -/
theorem bitsOfBytes_bytesOfBits (len n : Nat) : bitsOfBytes (bytesOfBits len n) = n % 256 ^ len := by
  induction len generalizing n with
  | zero => rw [Nat.pow_zero, Nat.mod_one]; rfl
  | succ len ih =>
    have hpow : 256 ^ (len + 1) = 256 * 256 ^ len := Nat.pow_succ'
    rw [bytesOfBits_succ, bitsOfBytes, ih, BitVec.toNat_ofNat, hpow]
    exact Nat.mod_mul.symm

/-- A format's words fit the bytes that are to hold them. -/
theorem two_pow_width_le (f : Format) : 2 ^ f.width ≤ 256 ^ formatBytes f := by
  cases f <;> decide

theorem wordOfBytes_bytesOfBits (w : PortWord) :
    wordOfBytes w.format (bytesOfBits (formatBytes w.format) w.bits) = .ok w := by
  have hfits : w.bits < 256 ^ formatBytes w.format := (portWord_bits_lt w).trans_le (two_pow_width_le _)
  rw [wordOfBytes, if_pos (length_bytesOfBits ..), bitsOfBytes_bytesOfBits, Nat.mod_eq_of_lt hfits, wordOfBits_bits]

/-- Settles O1: the word decodes to the operation, and its bytes are read as that word. -/
theorem encodedBytesDecodeToTheOperation : Obligations.EncodedBytesDecodeToTheOperation := by
  intro i
  refine ⟨decode_encode i, ?_⟩
  rw [decodeBytes, wordOfBytes_bytesOfBits]
  exact congrArg Except.ok (decode_encode i)

/-- A number within a format's width is a word of that format. -/
theorem exists_wordOfBits {f : Format} {n : Nat} (h : n < 2 ^ f.width) :
    ∃ w : PortWord, w.format = f ∧ w.bits = n ∧ wordOfBits f n = .ok w := by
  suffices hword : ∃ w : PortWord, w.format = f ∧ w.bits = n by
    obtain ⟨w, rfl, rfl⟩ := hword
    exact ⟨w, rfl, rfl, wordOfBits_bits w⟩
  cases f with
  | dlcpCyc => exact ⟨.dlcp (BitVec.ofNat 10 n), rfl, Nat.mod_eq_of_lt h⟩
  | rbfCyc => exact ⟨.rbf (BitVec.ofNat 11 n), rfl, Nat.mod_eq_of_lt h⟩
  | idxCyc => exact ⟨.idx (BitVec.ofNat 2 n), rfl, Nat.mod_eq_of_lt h⟩
  | cmd => exact ⟨.cmd (BitVec.ofNat 8 n), rfl, Nat.mod_eq_of_lt h⟩

/-- Settles O5: the length is looked at first, then the width. -/
theorem rawBytesAreRefusedOnlyWhenTheyAreNoWord : Obligations.RawBytesAreRefusedOnlyWhenTheyAreNoWord := by
  intro f bytes
  refine ⟨fun hlen => ?length, fun hlen hwide => ?width, fun hlen hfits => ?word⟩
  case length => rw [decodeBytes, wordOfBytes, if_neg hlen]
  case width => rw [decodeBytes, wordOfBytes, if_pos hlen, wordOfBits_of_wide hwide]
  case word =>
    obtain ⟨w, hformat, hbits, hword⟩ := exists_wordOfBits hfits
    exact ⟨w, hformat, hbits, by rw [decodeBytes, wordOfBytes, if_pos hlen, hword]⟩

/-! ### The control bits and the operand (R77 to R80) -/

/-- A word cut in two. -/
theorem exists_append {n m : Nat} (w : BitVec (n + m)) : ∃ (c : BitVec n) (v : BitVec m), c ++ v = w := by
  refine ⟨w.extractLsb' m n, w.extractLsb' 0 m, ?_⟩
  rw [BitVec.extractLsb'_append_extractLsb'_eq_extractLsb' (by omega)]
  exact BitVec.extractLsb'_eq_self

/-- Under a mask of control bits the operand is dropped. -/
theorem bits_and_control {n m : Nat} (c k : BitVec n) (v : BitVec m) :
    (c ++ v).toNat &&& (k ++ 0#m).toNat = ((c &&& k) ++ 0#m).toNat := by
  rw [← BitVec.toNat_and, BitVec.and_append, BitVec.and_zero]

/-- Under a mask with every bit of the operand it is kept. -/
theorem bits_and_operand {n m : Nat} (c k : BitVec n) (v : BitVec m) :
    (c ++ v).toNat &&& (k ++ BitVec.allOnes m).toNat = ((c &&& k) ++ v).toNat := by
  rw [← BitVec.toNat_and, BitVec.and_append, BitVec.and_allOnes]

theorem decode_cmd_append (h : BitVec 1) (m : BitVec 7) :
    decode (.cmd (h ++ m)) = if h.getLsbD 0 then .cmdDown m else .cmdUp m := by
  have hlow : (h ++ m).extractLsb' 0 7 = m := BitVec.extractLsb'_append_eq_right
  have hsign : (h ++ m : BitVec 8).getLsbD 7 = h.getLsbD 0 := BitVec.getLsbD_append
  rw [decode, decodeCmd, hsign, hlow]

/-- Decoding and encoding again keeps the bits the operation uses. -/
structure KeepsUsedBits (w : PortWord) : Prop where
  format : (encode (decode w)).format = w.format
  bits : (encode (decode w)).bits = w.bits &&& usedBits (decode w)

theorem keepsUsedBits_dlcp (c : BitVec 2) (v : Byte) : KeepsUsedBits (.dlcp (c ++ v)) := by
  obtain rfl | rfl | rfl | rfl : c = 0b00#2 ∨ c = 0b01#2 ∨ c = 0b10#2 ∨ c = 0b11#2 := by revert c; decide
  all_goals constructor <;> rw [decode_dlcp_append]
  case inl.format | inr.inl.format | inr.inr.inl.format | inr.inr.inr.format => rfl
  case inl.bits => exact (bits_and_control 0b00#2 0b11#2 v).symm
  case inr.inl.bits => exact (bits_and_operand 0b01#2 0b11#2 v).symm
  case inr.inr.inl.bits => exact (bits_and_control 0b10#2 0b10#2 v).symm
  case inr.inr.inr.bits => exact (bits_and_control 0b11#2 0b10#2 v).symm

/-- R78 with `w[10] = 1`: one operation for every other bit. -/
theorem keepsUsedBits_rbfReset {c : BitVec 3} (hreset : c.getLsbD 2 = true) (v : Byte) :
    KeepsUsedBits (.rbf (c ++ v)) := by
  have hcontrol : c &&& 0b100#3 = 0b100#3 := by revert c; decide
  have hdecode : decode (.rbf (c ++ v)) = .rbfReset := by rw [decode_rbf_append, if_pos hreset]
  constructor <;> rw [hdecode]
  case format => rfl
  case bits => exact ((bits_and_control c 0b100#3 v).trans (by rw [hcontrol]; rfl)).symm

/-- R78 with `w[10] = 0`: the two requests select the operation. -/
theorem keepsUsedBits_rbfRequest {c : BitVec 3} (hreset : c.getLsbD 2 = false) (v : Byte) :
    KeepsUsedBits (.rbf (c ++ v)) := by
  obtain rfl | rfl | rfl | rfl : c = 0b000#3 ∨ c = 0b001#3 ∨ c = 0b010#3 ∨ c = 0b011#3 := by
    revert c; decide
  all_goals constructor <;> rw [decode_rbf_append]
  case inl.format | inr.inl.format | inr.inr.inl.format | inr.inr.inr.format => rfl
  case inl.bits => exact (bits_and_control 0b000#3 0b111#3 v).symm
  case inr.inl.bits => exact (bits_and_control 0b001#3 0b111#3 v).symm
  case inr.inr.inl.bits => exact (bits_and_operand 0b010#3 0b111#3 v).symm
  case inr.inr.inr.bits => exact (bits_and_operand 0b011#3 0b111#3 v).symm

theorem keepsUsedBits_cmd (h : BitVec 1) (m : BitVec 7) : KeepsUsedBits (.cmd (h ++ m)) := by
  obtain rfl | rfl : h = 0b0#1 ∨ h = 0b1#1 := by revert h; decide
  all_goals constructor <;> rw [decode_cmd_append]
  case inl.format | inr.format => rfl
  case inl.bits => exact (bits_and_operand 0b0#1 0b1#1 m).symm
  case inr.bits => exact (bits_and_operand 0b1#1 0b1#1 m).symm

theorem keepsUsedBits_idx (w : BitVec 2) : KeepsUsedBits (.idx w) := by
  obtain rfl | rfl | rfl | rfl : w = 0b00#2 ∨ w = 0b01#2 ∨ w = 0b10#2 ∨ w = 0b11#2 := by revert w; decide
  all_goals exact ⟨rfl, rfl⟩

/-- Settles O2: `KeepsUsedBits` of every word, cut into control bits and operand. -/
theorem decodingReadsExactlyTheUsedBits : Obligations.DecodingReadsExactlyTheUsedBits := by
  intro w
  suffices hkeep : KeepsUsedBits w from ⟨hkeep.format, hkeep.bits⟩
  cases w with
  | dlcp w =>
    obtain ⟨c, v, rfl⟩ := exists_append (n := 2) (m := 8) w
    exact keepsUsedBits_dlcp c v
  | rbf w =>
    obtain ⟨c, v, rfl⟩ := exists_append (n := 3) (m := 8) w
    cases hreset : c.getLsbD 2 with
    | true => exact keepsUsedBits_rbfReset hreset v
    | false => exact keepsUsedBits_rbfRequest hreset v
  | idx w => exact keepsUsedBits_idx w
  | cmd w =>
    obtain ⟨h, m, rfl⟩ := exists_append (n := 1) (m := 7) w
    exact keepsUsedBits_cmd h m

/-! ### The rows of the table -/

/-- The word is a word of exactly one row, the row of the operation it decodes to. -/
def SelectsItsRow (w : PortWord) : Prop :=
  (opcodeTable.filter fun r => r.hits w).map OpcodeRow.mnemonic = [mnemonicOf (decode w)]

/-- Two words of one format that agree under every mask of the format's rows match the same rows. -/
theorem filter_hits_congr {w v : PortWord} (hformat : w.format = v.format)
    (hmask : ∀ r ∈ opcodeTable, r.format = w.format → w.bits &&& r.mask = v.bits &&& r.mask) :
    (opcodeTable.filter fun r => r.hits w) = opcodeTable.filter fun r => r.hits v := by
  refine List.filter_congr fun r hr => ?_
  rw [OpcodeRow.hits, OpcodeRow.hits, ← hformat]
  by_cases hrow : r.format = w.format
  · rw [hmask r hr hrow]
  · rw [decide_eq_false hrow, Bool.false_and, Bool.false_and]

/-- The masks of the controller's rows are control bits. -/
theorem dlcp_masks : ∀ r ∈ opcodeTable, r.format = .dlcpCyc → ∃ k : BitVec 2, r.mask = (k ++ 0#8).toNat := by decide

theorem rbf_masks : ∀ r ∈ opcodeTable, r.format = .rbfCyc → ∃ k : BitVec 3, r.mask = (k ++ 0#8).toNat := by decide

theorem cmd_masks : ∀ r ∈ opcodeTable, r.format = .cmd → ∃ k : BitVec 1, r.mask = (k ++ 0#7).toNat := by decide

/-- Words with the same control bits agree under a mask of control bits. -/
theorem bits_and_mask_congr {n m mask : Nat} (c : BitVec n) (v : BitVec m)
    (hmask : ∃ k : BitVec n, mask = (k ++ 0#m).toNat) : (c ++ v).toNat &&& mask = (c ++ 0#m).toNat &&& mask := by
  obtain ⟨k, rfl⟩ := hmask
  rw [bits_and_control, bits_and_control]

theorem selectsItsRow_dlcp (c : BitVec 2) (v : Byte) : SelectsItsRow (.dlcp (c ++ v)) := by
  have hrows := filter_hits_congr (w := .dlcp (c ++ v)) (v := .dlcp (c ++ 0#8)) rfl
    fun r hr hformat => bits_and_mask_congr c v (dlcp_masks r hr hformat)
  have hname : mnemonicOf (decode (.dlcp (c ++ v))) = mnemonicOf (decode (.dlcp (c ++ 0#8))) := by
    rw [decode_dlcp_append, decode_dlcp_append]
    split_ifs <;> rfl
  rw [SelectsItsRow, hrows, hname]
  clear hrows hname
  revert c
  decide

theorem selectsItsRow_rbf (c : BitVec 3) (v : Byte) : SelectsItsRow (.rbf (c ++ v)) := by
  have hrows := filter_hits_congr (w := .rbf (c ++ v)) (v := .rbf (c ++ 0#8)) rfl
    fun r hr hformat => bits_and_mask_congr c v (rbf_masks r hr hformat)
  have hname : mnemonicOf (decode (.rbf (c ++ v))) = mnemonicOf (decode (.rbf (c ++ 0#8))) := by
    rw [decode_rbf_append, decode_rbf_append]
    split_ifs <;> rfl
  rw [SelectsItsRow, hrows, hname]
  clear hrows hname
  revert c
  decide

theorem selectsItsRow_cmd (h : BitVec 1) (m : BitVec 7) : SelectsItsRow (.cmd (h ++ m)) := by
  have hrows := filter_hits_congr (w := .cmd (h ++ m)) (v := .cmd (h ++ 0#7)) rfl
    fun r hr hformat => bits_and_mask_congr h m (cmd_masks r hr hformat)
  have hname : mnemonicOf (decode (.cmd (h ++ m))) = mnemonicOf (decode (.cmd (h ++ 0#7))) := by
    rw [decode_cmd_append, decode_cmd_append]
    split_ifs <;> rfl
  rw [SelectsItsRow, hrows, hname]
  clear hrows hname
  revert h
  decide

theorem selectsItsRow_idx : ∀ w : BitVec 2, SelectsItsRow (.idx w) := by
  unfold SelectsItsRow
  decide

/-- Settles O3: no row's mask looks at the operand, so the control bits decide. -/
theorem everyWordSelectsExactlyItsTableRow : Obligations.EveryWordSelectsExactlyItsTableRow := by
  intro w
  suffices hrow : SelectsItsRow w from hrow
  cases w with
  | dlcp w =>
    obtain ⟨c, v, rfl⟩ := exists_append (n := 2) (m := 8) w
    exact selectsItsRow_dlcp c v
  | rbf w =>
    obtain ⟨c, v, rfl⟩ := exists_append (n := 3) (m := 8) w
    exact selectsItsRow_rbf c v
  | idx w => exact selectsItsRow_idx w
  | cmd w =>
    obtain ⟨h, m, rfl⟩ := exists_append (n := 1) (m := 7) w
    exact selectsItsRow_cmd h m

/-- Settles O4: ten closed words. -/
theorem writtenWordsDecodeAsTheSpecWritesThem : Obligations.WrittenWordsDecodeAsTheSpecWritesThem := by
  unfold Obligations.WrittenWordsDecodeAsTheSpecWritesThem
  decide

end Sys2Proof.Machine

/-!
# The ring as a queue (10_state.md R26, 20_memory.md R58, 41_ring_buffer.md R124)

The writes of a PUSH and of a POP keep the invariant of an RBF, and on the live bytes they append at the end and take off
the head. `KeepsQueue cap q q' log` says both of any way from `q` to `q'` that let in and gave out the bytes of `log`; it
composes, so a run and an interleaving have it as soon as each cycle and each atomic action has it.
-/
namespace Sys2Proof.Machine

/-! ### The flags and the count -/

theorem rbfEmpty_eq_false {q : Rbf} : rbfEmpty q = false ↔ q.rd ≠ q.wr := by
  rw [Bool.eq_false_iff, ne_eq, rbfEmpty_eq_true]

theorem rbfFull_eq_false {cap : Nat} {q : Rbf} : rbfFull cap q = false ↔ (q.wr + 1) % slots cap ≠ q.rd := by
  rw [Bool.eq_false_iff, ne_eq, rbfFull_eq_true, wrapNext]

theorem rbfFull_iff_rbfCount {cap : Nat} {q : Rbf} (hrd : q.rd < slots cap) (hwr : q.wr < slots cap) :
    rbfFull cap q = true ↔ rbfCount cap q = cap := by
  refine ⟨rbfCount_of_rbfFull hrd hwr, fun hcount => ?_⟩
  by_contra hfree
  have hpush := rbfCount_pushWrites hrd hwr (eq_false_of_ne_true hfree) 0x00#8
  have hle := rbfCount_le (q := pushWrites cap q 0x00#8) hrd (wrapNext_lt (slots_pos cap) q.wr)
  omega

/-- Settles O18: each flag is its value of the count, and `wr` is the first slot behind the live ones. -/
theorem fullAndEmptyAgreeWithTheCount : Obligations.FullAndEmptyAgreeWithTheCount :=
  fun _ _ _ hrd hwr =>
    ⟨rbfFull_iff_rbfCount hrd hwr, rbfEmpty_iff_rbfCount hrd hwr, rbfCount_le hrd hwr, slot_rbfCount hrd hwr⟩

/-! ### The live bytes -/

/-- Where every live slot holds a byte, the live bytes are the slots' contents, one each. -/
theorem liveBytes_eq_map {cap : Nat} {q : Rbf} (h : RbfInv cap q) :
    liveBytes cap q =
      (List.range (rbfCount cap q)).map fun j => (memRead q.mem ((q.rd + j) % slots cap)).getD 0x00#8 := by
  obtain ⟨_, _, _, _, hlive⟩ := h
  rw [liveBytes, ← List.filterMap_eq_map]
  refine List.filterMap_congr fun j hj => ?_
  obtain ⟨b, hb⟩ := Option.isSome_iff_exists.1 (hlive j (List.mem_range.1 hj))
  simp [hb]

theorem length_liveBytes {cap : Nat} {q : Rbf} (h : RbfInv cap q) : (liveBytes cap q).length = rbfCount cap q := by
  rw [liveBytes_eq_map h, List.length_map, List.length_range]

theorem getElem?_liveBytes {cap : Nat} {q : Rbf} (h : RbfInv cap q) {j : Nat} (hj : j < rbfCount cap q) :
    (liveBytes cap q)[j]? = memRead q.mem ((q.rd + j) % slots cap) := by
  have ⟨_, _, _, _, hlive⟩ := h
  obtain ⟨b, hb⟩ := Option.isSome_iff_exists.1 (hlive j hj)
  rw [liveBytes_eq_map h, List.getElem?_map, List.getElem?_range hj, hb]
  simp [hb]

theorem liveBytes_of_rbfEmpty {q : Rbf} (h : rbfEmpty q = true) (cap : Nat) : liveBytes cap q = [] := by
  rw [liveBytes, rbfCount_of_rbfEmpty h, List.range_zero, List.filterMap_nil]

theorem length_liveBytes_le {cap : Nat} {q : Rbf} (h : RbfInv cap q) : (liveBytes cap q).length ≤ cap := by
  have ⟨_, _, hrd, hwr, _⟩ := h
  exact length_liveBytes h ▸ rbfCount_le hrd hwr

/-- R165 of any RBF: full is as many live bytes as the capacity. -/
theorem rbfFull_iff_length_liveBytes {cap : Nat} {q : Rbf} (h : RbfInv cap q) :
    rbfFull cap q = true ↔ (liveBytes cap q).length = cap := by
  have ⟨_, _, hrd, hwr, _⟩ := h
  rw [length_liveBytes h, rbfFull_iff_rbfCount hrd hwr]

/-- Settles O19: the live bytes are the contents of `count` slots, and the flags stand for different counts. -/
theorem ringInvariantGivesTheLiveBytes : Obligations.RingInvariantGivesTheLiveBytes := by
  intro cap q hcap h
  have ⟨_, _, hrd, hwr, _⟩ := h
  have hboth := not_rbfFull_and_rbfEmpty hrd hwr (by omega)
  exact ⟨length_liveBytes h, rbfCount_le hrd hwr, fun ⟨hempty, hfull⟩ => hboth ⟨hfull, hempty⟩,
    fun _ hj => getElem?_liveBytes h hj⟩

/-! ### PUSH, POP and RESET -/

/-- After a pop the slots are numbered from the next one on. -/
theorem slot_popWrites (cap : Nat) (q : Rbf) (j : Nat) :
    ((popWrites cap q).rd + j) % slots cap = (q.rd + (j + 1)) % slots cap := by
  rw [popWrites_rd, wrapNext, Nat.mod_add_mod, Nat.add_assoc, Nat.add_comm 1 j]

/-- A pop takes the byte at `rd`, the head of the live bytes (R115, R124). -/
theorem liveBytes_eq_cons_popWrites {cap : Nat} {q : Rbf} (hrd : q.rd < slots cap) (hwr : q.wr < slots cap)
    (hsome : rbfEmpty q = false) {b : Byte} (hb : memRead q.mem q.rd = some b) :
    liveBytes cap q = b :: liveBytes cap (popWrites cap q) := by
  have hhead : memRead q.mem ((q.rd + 0) % slots cap) = some b := by rwa [Nat.add_zero, Nat.mod_eq_of_lt hrd]
  have htail : ∀ j, memRead (popWrites cap q).mem (((popWrites cap q).rd + j) % slots cap) =
      memRead q.mem ((q.rd + (j + 1)) % slots cap) := fun j => congrArg (memRead q.mem) (slot_popWrites cap q j)
  rw [liveBytes, ← rbfCount_popWrites hrd hwr hsome, List.range_succ_eq_map, liveBytes]
  simp only [List.filterMap_cons, hhead, List.filterMap_map, htail]
  rfl

/-- A push into a free slot keeps the invariant: the slot it makes live is the one it writes. -/
theorem rbfInv_pushWrites {cap : Nat} {q : Rbf} (h : RbfInv cap q) (hfree : rbfFull cap q = false) (v : Byte) :
    RbfInv cap (pushWrites cap q v) := by
  obtain ⟨hwf, hcells, hrd, hwr, hlive⟩ := h
  refine ⟨memory_wf_memWrite hwf _ v, fun cell hcell => ?cells, hrd, wrapNext_lt (slots_pos cap) _, fun j hj => ?live⟩
  case cells =>
    obtain rfl | hold := mem_memWrite hcell
    · exact hwr
    · exact hcells cell hold
  case live =>
    rw [rbfCount_pushWrites hrd hwr hfree] at hj
    rw [pushWrites_mem, pushWrites_rd]
    obtain hold | rfl := Nat.lt_or_eq_of_le (Nat.le_of_lt_succ hj)
    · rw [memRead_memWrite_of_ne _ v (slot_ne_wr hrd hwr hold)]
      exact hlive j hold
    · rw [slot_rbfCount hrd hwr, memRead_memWrite_self]
      rfl

/-- A pop keeps the invariant: it makes no slot live. -/
theorem rbfInv_popWrites {cap : Nat} {q : Rbf} (h : RbfInv cap q) (hsome : rbfEmpty q = false) :
    RbfInv cap (popWrites cap q) := by
  obtain ⟨hwf, hcells, hrd, hwr, hlive⟩ := h
  refine ⟨hwf, hcells, wrapNext_lt (slots_pos cap) _, hwr, fun j hj => ?_⟩
  have hcount := rbfCount_popWrites hrd hwr hsome
  rw [slot_popWrites]
  exact hlive (j + 1) (by omega)

/-- A reset keeps the invariant: no slot is live after it. -/
theorem rbfInv_rbfResetRegs {cap : Nat} {q : Rbf} (h : RbfInv cap q) : RbfInv cap (rbfResetRegs q) := by
  obtain ⟨hwf, hcells, _⟩ := h
  have hnone : rbfCount cap (rbfResetRegs q) = 0 := rbfCount_of_rbfEmpty rfl cap
  exact ⟨hwf, hcells, slots_pos cap, slots_pos cap, fun j hj => absurd hj (by omega)⟩

/-! ### No byte lost, duplicated or reordered (20_memory.md R58) -/

/-- From `q` to `q'` the bytes of `log.accepted` came in and those of `log.taken` went out: the live bytes and then the
accepted ones are the taken ones and then the live bytes, and `q'` is well-formed. -/
structure KeepsQueue (cap : Nat) (q q' : Rbf) (log : QueueLog) : Prop where
  inv : RbfInv cap q'
  order : liveBytes cap q ++ log.accepted = log.taken ++ liveBytes cap q'

theorem KeepsQueue.refl {cap : Nat} {q : Rbf} (h : RbfInv cap q) : KeepsQueue cap q q emptyLog := by
  refine ⟨h, ?_⟩
  simp [emptyLog]

theorem KeepsQueue.trans {cap : Nat} {q q' q'' : Rbf} {a b : QueueLog} (h : KeepsQueue cap q q' a)
    (h' : KeepsQueue cap q' q'' b) : KeepsQueue cap q q'' (joinLog a b) := by
  refine ⟨h'.inv, ?_⟩
  calc liveBytes cap q ++ (a.accepted ++ b.accepted)
      = a.taken ++ (liveBytes cap q' ++ b.accepted) := by rw [← List.append_assoc, h.order, List.append_assoc]
    _ = a.taken ++ b.taken ++ liveBytes cap q'' := by rw [h'.order, List.append_assoc]

theorem KeepsQueue.pushWrites {cap : Nat} {q : Rbf} (h : RbfInv cap q) (hfree : rbfFull cap q = false) (v : Byte) :
    KeepsQueue cap q (pushWrites cap q v) { accepted := [v], taken := [] } := by
  have ⟨_, _, hrd, hwr, _⟩ := h
  exact ⟨rbfInv_pushWrites h hfree v, (liveBytes_pushWrites hrd hwr hfree v).symm⟩

theorem KeepsQueue.popWrites {cap : Nat} {q : Rbf} (h : RbfInv cap q) (hsome : rbfEmpty q = false) {b : Byte}
    (hb : memRead q.mem q.rd = some b) : KeepsQueue cap q (popWrites cap q) { accepted := [], taken := [b] } := by
  have ⟨_, _, hrd, hwr, _⟩ := h
  exact ⟨rbfInv_popWrites h hsome, (List.append_nil _).trans (liveBytes_eq_cons_popWrites hrd hwr hsome hb)⟩

/-- A push into a free slot does not touch the byte at the head. -/
theorem memRead_pushWrites_rd {cap : Nat} {q : Rbf} (hsome : rbfEmpty q = false) (v : Byte) :
    memRead (pushWrites cap q v).mem (pushWrites cap q v).rd = memRead q.mem q.rd := by
  have hne : q.rd ≠ q.wr := rbfEmpty_eq_false.1 hsome
  exact memRead_memWrite_of_ne _ v hne

/-- The push and the pop of one cycle, both on the pre-state (R119). -/
theorem KeepsQueue.both {cap : Nat} {q : Rbf} (h : RbfInv cap q) (hfree : rbfFull cap q = false)
    (hsome : rbfEmpty q = false) (v : Byte) {b : Byte} (hb : memRead q.mem q.rd = some b) :
    KeepsQueue cap q (Machine.popWrites cap (Machine.pushWrites cap q v)) { accepted := [v], taken := [b] } := by
  have ⟨_, _, hrd, hwr, _⟩ := h
  have hpush := KeepsQueue.pushWrites h hfree v
  exact hpush.trans
    (.popWrites hpush.inv (rbfEmpty_pushWrites hrd hwr hfree v) ((memRead_pushWrites_rd hsome v).trans hb))

/-! ### Every interleaving of an RBF's atomic actions (20_memory.md R57) -/

theorem atomicPush_of_full {cap : Nat} {q : Rbf} (h : rbfFull cap q = true) (v : Byte) :
    atomicPush cap q v = (q, .bufferFull) := if_pos h

theorem atomicPush_of_free {cap : Nat} {q : Rbf} (h : rbfFull cap q = false) (v : Byte) :
    atomicPush cap q v = (pushWrites cap q v, .ok) := if_neg (Bool.eq_false_iff.1 h)

theorem atomicPop_of_empty {cap : Nat} {q : Rbf} (h : rbfEmpty q = true) : atomicPop cap q = .next (q, none) := if_pos h

theorem atomicPop_of_some {cap : Nat} {q : Rbf} (h : rbfEmpty q = false) {b : Byte} (hb : memRead q.mem q.rd = some b) :
    atomicPop cap q = .next (popWrites cap q, some b) := by
  rw [atomicPop, h, memFetch_eq_next.2 hb]
  rfl

/-- What an atomic push lets in is what it reports as accepted. -/
theorem keepsQueue_atomicPush {cap : Nat} {q : Rbf} (h : RbfInv cap q) (v : Byte) :
    KeepsQueue cap q (atomicPush cap q v).1
      { accepted := if (atomicPush cap q v).2 = .ok then [v] else [], taken := [] } := by
  cases hfull : rbfFull cap q with
  | true => rw [atomicPush_of_full hfull]; exact .refl h
  | false => rw [atomicPush_of_free hfull]; exact .pushWrites h hfull v

theorem keepsQueue_rbfAct {cap : Nat} {q : Rbf} (h : RbfInv cap q) (a : RbfAction) :
    ∃ q' log, rbfAct cap q a = .next (q', log) ∧ KeepsQueue cap q q' log := by
  cases a with
  | push v => exact ⟨_, _, rfl, keepsQueue_atomicPush h v⟩
  | pop =>
    cases hempty : rbfEmpty q with
    | true => exact ⟨q, emptyLog, by rw [rbfAct, atomicPop_of_empty hempty]; rfl, .refl h⟩
    | false =>
      obtain ⟨b, hb⟩ := exists_head_of_rbfInv h hempty
      exact ⟨_, _, by rw [rbfAct, atomicPop_of_some hempty hb]; rfl, .popWrites h hempty hb⟩

/-- Settles O25: every atomic action runs and keeps the queue, and `KeepsQueue` composes along the schedule. -/
theorem rbfInterleavingsKeepEveryByteInOrder : Obligations.RbfInterleavingsKeepEveryByteInOrder := by
  intro cap q acts _ h
  suffices hrun : ∃ q' log, rbfInterleave cap acts q = .next (q', log) ∧ KeepsQueue cap q q' log by
    obtain ⟨q', log, hnext, hkeep⟩ := hrun
    exact ⟨q', log, hnext, hkeep.inv, hkeep.order⟩
  induction acts generalizing q with
  | nil => exact ⟨q, emptyLog, rfl, .refl h⟩
  | cons a acts ih =>
    obtain ⟨q', log, hact, hkeep⟩ := keepsQueue_rbfAct h a
    obtain ⟨q'', log', hrest, hkeep'⟩ := ih q' hkeep.inv
    exact ⟨q'', joinLog log log', by rw [rbfInterleave, hact, andThen_next, hrest]; rfl, hkeep.trans hkeep'⟩

end Sys2Proof.Machine

/-!
# The stand-alone RBF against the queue (41_ring_buffer.md R122 to R124)

A PUSH and a POP that succeed are `pushWrites` and `popWrites`, all others leave the RBF as it is; the next states are
written out once (`exec_rbfPush_of_full` to `exec_rbfPop_of_some`) and the laws of the queue are read off them. The cycle
with both requests is its two actions in either order (R57).
-/
namespace Sys2Proof.Machine

theorem params_wf_iff {p : Params} : p.wf = true ↔ 2 ≤ p.c ∧ 2 ≤ p.n ∧ 1 ≤ p.k ∧ 1 ≤ p.limit := by
  simp [Params.wf, and_assoc]

theorem rbfCanRun_of_goodState {s : State} (h : GoodState s) : RbfCanRun s := by
  obtain ⟨hwf, _, ⟨_, _, hrd, hwr, _⟩, _⟩ := h
  obtain ⟨hc, _⟩ := params_wf_iff.1 hwf
  exact ⟨hc, hrd, hwr⟩

theorem rbfInv_of_goodState {s : State} (h : GoodState s) : RbfInv s.params.c s.rbf := by
  obtain ⟨_, _, hinv, _⟩ := h
  exact hinv

/-! ### PUSH and POP -/

theorem rbfEdge_push_of_full {cap : Nat} {q : Rbf} (h : rbfFull cap q = true) (v : Byte) :
    rbfEdge cap q false true false v = q := by
  simp [rbfEdge, popValid, h]

theorem rbfEdge_push_of_free {cap : Nat} {q : Rbf} (h : rbfFull cap q = false) (v : Byte) :
    rbfEdge cap q false true false v = pushWrites cap q v := by
  simp [rbfEdge, popValid, pushWrites, h]

theorem rbfEdge_pop_of_empty {cap : Nat} {q : Rbf} (h : rbfEmpty q = true) (v : Byte) :
    rbfEdge cap q false false true v = q := by
  simp [rbfEdge, pushOk, h]

theorem rbfEdge_pop_of_some {cap : Nat} {q : Rbf} (h : rbfEmpty q = false) (v : Byte) :
    rbfEdge cap q false false true v = popWrites cap q := by
  simp [rbfEdge, pushOk, popWrites, h]

section
variable {s : State} (hrun : RbfCanRun s)
include hrun

/-- A push on a full RBF (R113, R114). -/
theorem exec_rbfPush_of_full (hfull : rbfFull s.params.c s.rbf = true) (v : Byte) :
    exec (.rbfPush v) s = .next (s.setRbf s.rbf (rbfOutputs s.params.c s.rbf false true false 0x00#8)) :=
  (rbfCycle_of_popValid_eq_false hrun rfl v).trans (by rw [rbfEdge_push_of_full hfull])

/-- A push on any other RBF (R113, R114). -/
theorem exec_rbfPush_of_free (hfree : rbfFull s.params.c s.rbf = false) (v : Byte) :
    exec (.rbfPush v) s =
      .next (s.setRbf (pushWrites s.params.c s.rbf v) (rbfOutputs s.params.c s.rbf false true false 0x00#8)) :=
  (rbfCycle_of_popValid_eq_false hrun rfl v).trans (by rw [rbfEdge_push_of_free hfree])

/-- A pop of an empty RBF (R115, R116). -/
theorem exec_rbfPop_of_empty (hempty : rbfEmpty s.rbf = true) :
    exec .rbfPop s = .next (s.setRbf s.rbf (rbfOutputs s.params.c s.rbf false false true 0x00#8)) :=
  (rbfCycle_of_popValid_eq_false hrun (by simp [hempty]) 0x00#8).trans (by rw [rbfEdge_pop_of_empty hempty])

/-- A pop of any other RBF, whose oldest byte is `b` (R115, R116). -/
theorem exec_rbfPop_of_some (hsome : rbfEmpty s.rbf = false) {b : Byte} (hb : memRead s.rbf.mem s.rbf.rd = some b) :
    exec .rbfPop s =
      .next (s.setRbf (popWrites s.params.c s.rbf) (rbfOutputs s.params.c s.rbf false false true b)) :=
  rbfCycle_eq_next.2 ⟨hrun, b, popByte_eq_next.2 (.inl ⟨by simp [hsome], hb⟩), by rw [rbfEdge_pop_of_some hsome]⟩

end

@[simp] theorem pushOk_no_request (cap : Nat) (q : Rbf) (rst : Bool) : pushOk cap q rst false = false := by simp [pushOk]

@[simp] theorem pushFull_no_request (cap : Nat) (q : Rbf) (rst : Bool) : pushFull cap q rst false = false := by
  simp [pushFull]

@[simp] theorem popValid_no_request (q : Rbf) (rst : Bool) : popValid q rst false = false := by simp [popValid]

/-- The ports of a PUSH: an outcome for the push, none for a pop. -/
theorem rbfOutputs_push (cap : Nat) (q : Rbf) (head : Byte) :
    rbfOutputs cap q false true false head =
      { pushOk := !rbfFull cap q, pushFull := rbfFull cap q, popValid := false, popData := 0x00#8
        full := rbfFull cap q, empty := rbfEmpty q, count := rbfCount cap q } := by
  simp [rbfOutputs]

/-- The ports of a POP: an outcome for the pop, none for a push. -/
theorem rbfOutputs_pop (cap : Nat) (q : Rbf) (head : Byte) :
    rbfOutputs cap q false false true head =
      { pushOk := false, pushFull := false, popValid := !rbfEmpty q
        popData := if !rbfEmpty q then head else 0x00#8
        full := rbfFull cap q, empty := rbfEmpty q, count := rbfCount cap q } := by
  simp [rbfOutputs]

/-- Settles O14: on a full RBF the edge writes nothing, on any other it is `pushWrites`. -/
theorem rbfPushWritesItsSlotOrReportsFull : Obligations.RbfPushWritesItsSlotOrReportsFull := by
  intro s v hrun
  have ⟨_, hrd, hwr⟩ := hrun
  cases hfull : rbfFull s.params.c s.rbf with
  | true =>
    have hnext := rbfFull_eq_true.1 hfull
    refine ⟨_, exec_rbfPush_of_full hrun hfull v, rfl, rbfOutputs_flagPortsShow .., ?_⟩
    rw [State.setRbf_rbfOut, rbfOutputs_push, hfull]
    exact ⟨rfl, rfl, fun _ => ⟨rfl, rfl, rfl⟩, fun hne => absurd hnext hne⟩
  | false =>
    have hnext : (s.rbf.wr + 1) % slots s.params.c ≠ s.rbf.rd := rbfFull_eq_false.1 hfull
    refine ⟨_, exec_rbfPush_of_free hrun hfull v, rfl, rbfOutputs_flagPortsShow .., ?_⟩
    rw [State.setRbf_rbfOut, State.setRbf_rbf, rbfOutputs_push, hfull]
    exact ⟨rfl, rfl, fun heq => absurd heq hnext, fun _ => ⟨rfl, rfl, rfl, rfl, memRead_memWrite_self ..,
      fun _ => memRead_memWrite_of_ne _ v, rbfEmpty_pushWrites hrd hwr hfull v, rbfCount_pushWrites hrd hwr hfull v⟩⟩

/-- Settles O15: on an empty RBF the edge writes nothing, on any other it is `popWrites`. -/
theorem rbfPopReturnsTheOldestByteOrNone : Obligations.RbfPopReturnsTheOldestByteOrNone := by
  intro s hrun hholds
  have ⟨_, hrd, hwr⟩ := hrun
  cases hempty : rbfEmpty s.rbf with
  | true =>
    have hsame := rbfEmpty_eq_true.1 hempty
    refine ⟨_, exec_rbfPop_of_empty hrun hempty, rfl, rbfOutputs_flagPortsShow .., ?_⟩
    rw [State.setRbf_rbfOut, State.setRbf_rbf, rbfOutputs_pop, hempty]
    exact ⟨rfl, rfl, rfl, fun _ => rfl, rfl, fun _ => ⟨rfl, rfl, rfl⟩, fun hne => absurd hsame hne⟩
  | false =>
    have hne : s.rbf.rd ≠ s.rbf.wr := rbfEmpty_eq_false.1 hempty
    obtain ⟨b, hb⟩ := Option.isSome_iff_exists.1 (hholds hne)
    refine ⟨_, exec_rbfPop_of_some hrun hempty hb, rfl, rbfOutputs_flagPortsShow .., ?_⟩
    rw [State.setRbf_rbfOut, State.setRbf_rbf, rbfOutputs_pop, hempty]
    exact ⟨rfl, rfl, rfl, fun _ => rfl, rfl, fun heq => absurd heq hne, fun _ => ⟨rfl, hb, rfl,
      rbfFull_popWrites hrd hwr hempty, rbfCount_popWrites hrd hwr hempty⟩⟩

/-! ### Live slots (R122) -/

/-- Where the owners alone write, no live slot reads otherwise: the producer writes at `wr`. -/
theorem OwnersWrite.memRead_live {cap : Nat} {q q' : Rbf} {reset pushed popped : Prop}
    (h : OwnersWrite cap q q' reset pushed popped) (hrd : q.rd < slots cap) (hwr : q.wr < slots cap) {j : Nat}
    (hj : j < rbfCount cap q) :
    memRead q'.mem ((q.rd + j) % slots cap) = memRead q.mem ((q.rd + j) % slots cap) := by
  by_contra hne
  obtain ⟨hslot, _⟩ := h.slot _ hne
  exact slot_ne_wr hrd hwr hj hslot

/-- Settles O21: `OwnersWrite` of both rings, and `wr` is no live slot. -/
theorem noOperationOverwritesALiveSlot : Obligations.NoOperationOverwritesALiveSlot := by
  intro i s t hgood hexec
  obtain ⟨_, ⟨⟨_, _, hrdN, hwrN, _⟩, _⟩, ⟨_, _, hrdC, hwrC, _⟩, _⟩ := hgood
  exact ⟨fun _ hj => (ownersWrite_rbf hexec).memRead_live hrdC hwrC hj,
    fun _ hj => (ownersWrite_queue hexec).memRead_live hrdN hwrN hj⟩

/-! ### Every cycle of a well-formed RBF -/

theorem not_rbfEmpty_of_popValid {q : Rbf} {rst pop : Bool} (h : popValid q rst pop = true) : rbfEmpty q = false := by
  simp only [popValid, Bool.and_eq_true, Bool.not_eq_true'] at h
  exact h.2

/-- A pop request on a well-formed RBF answers, with the byte at `rd` where there is one. -/
theorem exists_popByte_of_rbfInv {cap : Nat} {q : Rbf} (h : RbfInv cap q) (rst pop : Bool) :
    ∃ b, popByte q rst pop = .next b ∧ (popValid q rst pop = true → memRead q.mem q.rd = some b) := by
  cases hvalid : popValid q rst pop with
  | false => exact ⟨0x00#8, popByte_eq_next.2 (.inr ⟨hvalid, rfl⟩), nofun⟩
  | true =>
    obtain ⟨b, hb⟩ := exists_head_of_rbfInv h (not_rbfEmpty_of_popValid hvalid)
    exact ⟨b, popByte_eq_next.2 (.inl ⟨hvalid, hb⟩), fun _ => hb⟩

/-- A cycle of a well-formed RBF runs, and the byte it pops is the one at `rd`. -/
theorem exists_rbfCycle_of_rbfInv {s : State} (hcap : 2 ≤ s.params.c) (h : RbfInv s.params.c s.rbf)
    (rst push pop : Bool) (data : Byte) :
    ∃ head, (popValid s.rbf rst pop = true → memRead s.rbf.mem s.rbf.rd = some head) ∧
      rbfCycle rst push pop data s =
        .next (s.setRbf (rbfEdge s.params.c s.rbf rst push pop data)
          (rbfOutputs s.params.c s.rbf rst push pop head)) := by
  have ⟨_, _, hrd, hwr, _⟩ := h
  obtain ⟨b, hpop, hb⟩ := exists_popByte_of_rbfInv h rst pop
  exact ⟨b, hb, rbfCycle_eq_next.2 ⟨⟨hcap, hrd, hwr⟩, b, hpop, rfl⟩⟩

/-- The edge without reset, whatever is requested. -/
theorem keepsQueue_rbfEdge {cap : Nat} {q : Rbf} (h : RbfInv cap q) (push pop : Bool) (v : Byte) {b : Byte}
    (hb : popValid q false pop = true → memRead q.mem q.rd = some b) :
    KeepsQueue cap q (rbfEdge cap q false push pop v)
      { accepted := if pushOk cap q false push then [v] else []
        taken := if popValid q false pop then [b] else [] } := by
  cases hpush : pushOk cap q false push with
  | false =>
    cases hpop : popValid q false pop with
    | false =>
      have hedge : rbfEdge cap q false push pop v = q := by simp [rbfEdge, hpush, hpop]
      rw [hedge]
      exact .refl h
    | true =>
      have hedge : rbfEdge cap q false push pop v = popWrites cap q := by simp [rbfEdge, popWrites, hpush, hpop]
      have hsome := not_rbfEmpty_of_popValid hpop
      exact hedge ▸ .popWrites h hsome (hb hpop)
  | true =>
    have hfree := not_rbfFull_of_pushOk hpush
    cases hpop : popValid q false pop with
    | false =>
      have hedge : rbfEdge cap q false push pop v = pushWrites cap q v := by simp [rbfEdge, pushWrites, hpush, hpop]
      exact hedge ▸ .pushWrites h hfree v
    | true =>
      have hedge : rbfEdge cap q false push pop v = popWrites cap (pushWrites cap q v) := by
        simp [rbfEdge, popWrites, pushWrites, hpush, hpop]
      have hsome := not_rbfEmpty_of_popValid hpop
      exact hedge ▸ .both h hfree hsome v (hb hpop)

/-- The edge keeps the invariant, a reset too. -/
theorem rbfInv_rbfEdge {cap : Nat} {q : Rbf} (h : RbfInv cap q) (rst push pop : Bool) (v : Byte) :
    RbfInv cap (rbfEdge cap q rst push pop v) := by
  cases rst with
  | true => exact rbfInv_rbfResetRegs h
  | false =>
    obtain ⟨b, _, hb⟩ := exists_popByte_of_rbfInv h false pop
    exact (keepsQueue_rbfEdge h push pop v hb).inv

/-! ### Every sequence of cycles (20_memory.md R58) -/

/-- A cycle word without reset is the cycle rule with `rst = 0`, and its entry in the log is read off the ports. -/
theorem exec_rbfEntry_of_active {w : PortWord} (h : activeRbfWord w = true) :
    ∃ push pop v, (∀ s, exec (decode w) s = rbfCycle false push pop v s) ∧
      ∀ t, rbfEntry (decode w) t =
        { accepted := if push && t.rbfOut.pushOk then [v] else []
          taken := if pop && t.rbfOut.popValid then [t.rbfOut.popData] else [] } := by
  obtain ⟨hformat, hreset⟩ : w.format = .rbfCyc ∧ w.isReset = false := by simpa [activeRbfWord] using h
  cases w with
  | rbf w =>
    have hbit : ¬w.getLsbD 10 = true := Bool.eq_false_iff.1 hreset
    rw [decode, decodeRbf, if_neg hbit]
    split
    · split
      · exact ⟨true, true, _, fun _ => rfl, fun _ => rfl⟩
      · exact ⟨true, false, _, fun _ => rfl, fun _ => rfl⟩
    · split
      · exact ⟨false, true, 0x00#8, fun _ => rfl, fun _ => rfl⟩
      · exact ⟨false, false, 0x00#8, fun _ => rfl, fun _ => rfl⟩
  | dlcp | idx | cmd => exact nomatch hformat

/-- One cycle of a well-formed RBF keeps its queue, with the parameters unchanged. -/
theorem exists_rbfCycle_keepsQueue {s : State} {w : PortWord} (hw : activeRbfWord w = true) (hcap : 2 ≤ s.params.c)
    (h : RbfInv s.params.c s.rbf) :
    ∃ t, exec (decode w) s = .next t ∧ t.params = s.params ∧
      KeepsQueue s.params.c s.rbf t.rbf (rbfEntry (decode w) t) := by
  obtain ⟨push, pop, v, hexec, hentry⟩ := exec_rbfEntry_of_active hw
  obtain ⟨b, hb, hcycle⟩ := exists_rbfCycle_of_rbfInv hcap h false push pop v
  have hkeep := keepsQueue_rbfEdge h push pop v hb
  refine ⟨_, (hexec s).trans hcycle, rfl, ?_⟩
  have haccepted : (push && pushOk s.params.c s.rbf false push) = pushOk s.params.c s.rbf false push := by
    cases push <;> simp
  have hvalid : (pop && popValid s.rbf false pop) = popValid s.rbf false pop := by cases pop <;> simp
  have htaken : ∀ valid : Bool, (if valid then [if valid then b else 0x00#8] else []) = if valid then [b] else [] := by
    intro valid
    cases valid <;> rfl
  rw [hentry, State.setRbf_rbf, State.setRbf_rbfOut, rbfOutputs]
  simp only [haccepted, hvalid, htaken]
  exact hkeep

theorem rbfLog_cons {w : PortWord} {ws : List PortWord} {s t : State} (h : exec (decode w) s = .next t) :
    rbfLog (w :: ws) s = joinLog (rbfEntry (decode w) t) (rbfLog ws t) := by
  rw [rbfLog, h]

theorem driveWords_cons_of_exec {w : PortWord} {s t : State} (h : exec (decode w) s = .next t) (ws : List PortWord) :
    driveWords (w :: ws) s = driveWords ws t := by
  rw [driveWords_cons, h, andThen_next]

/-- A run of a well-formed RBF keeps its queue. -/
theorem exists_rbfRun_keepsQueue {s : State} {ws : List PortWord} (hws : ∀ w ∈ ws, activeRbfWord w = true)
    (hcap : 2 ≤ s.params.c) (h : RbfInv s.params.c s.rbf) :
    ∃ t, driveWords ws s = .next t ∧ KeepsQueue s.params.c s.rbf t.rbf (rbfLog ws s) := by
  induction ws generalizing s with
  | nil => exact ⟨s, rfl, .refl h⟩
  | cons w ws ih =>
    obtain ⟨hw, hws⟩ := List.forall_mem_cons.1 hws
    obtain ⟨t, hexec, hparams, hkeep⟩ := exists_rbfCycle_keepsQueue hw hcap h
    obtain ⟨u, hrun, hkeep'⟩ := ih hws (hparams ▸ hcap) (hparams ▸ hkeep.inv)
    rw [hparams] at hkeep'
    exact ⟨u, (driveWords_cons_of_exec hexec _).trans hrun, rbfLog_cons hexec ▸ hkeep.trans hkeep'⟩

/-- Settles O24: `KeepsQueue` of the whole run. -/
theorem rbfRunsKeepEveryByteInOrder : Obligations.RbfRunsKeepEveryByteInOrder := by
  intro s ws hgood hws
  have ⟨hcap, _⟩ := rbfCanRun_of_goodState hgood
  obtain ⟨t, hrun, hkeep⟩ := exists_rbfRun_keepsQueue hws hcap (rbfInv_of_goodState hgood)
  exact ⟨t, hrun, hkeep.order⟩

end Sys2Proof.Machine

/-!
# The controller's queue over runs and interleavings (20_memory.md R57, R58; 43_dispatch.md R159, R161, R171)

The consumer takes a byte in START alone, and it is the one at the head (`consume_queue_or_start`), so each cycle and each
atomic action keeps the queue (`KeepsQueue`). `GoodCycle` is what a NOP or SEND leaves of a good state; what a run does is
then an induction on its words. The drain bound counts down `cyclesToDrain`, which every cycle without an accepted byte
lowers by one.
-/
namespace Sys2Proof.Machine

/-! ### The consumer's action (43_dispatch.md R170) -/

theorem consumerAction_eq_start {d : Dlcp} :
    consumerAction d = .start ↔ d.st = .idle ∧ rbfEmpty d.queue = false := by
  unfold consumerAction
  cases d.st
  · cases rbfEmpty d.queue <;> simp
  · by_cases hms : d.msLeft = 0#11 <;> simp [hms]

theorem consumerAction_eq_count {d : Dlcp} : consumerAction d = .count ↔ d.st = .act ∧ d.msLeft ≠ 0#11 := by
  unfold consumerAction
  cases d.st
  · cases rbfEmpty d.queue <;> simp
  · by_cases hms : d.msLeft = 0#11 <;> simp [hms]

theorem consumerAction_eq_finish {d : Dlcp} : consumerAction d = .finish ↔ d.st = .act ∧ d.msLeft = 0#11 := by
  unfold consumerAction
  cases d.st
  · cases rbfEmpty d.queue <;> simp
  · by_cases hms : d.msLeft = 0#11 <;> simp [hms]

/-- The byte a cycle or an action from `d` to `c` takes into flight, if it does: `cur_raw` of a START (R161). -/
def startedBytes (d c : Dlcp) : List Byte := if d.st = .idle ∧ c.st = .act then [c.curRaw] else []

/-- The consumer leaves the queue, or takes the byte at its head into flight. -/
theorem consume_queue_or_start {p : Params} {d c : Dlcp} (h : consume p d = .next c) :
    (c.queue = d.queue ∧ startedBytes d c = []) ∨
      (c.queue = popWrites p.n d.queue ∧ startedBytes d c = [c.curRaw] ∧ rbfEmpty d.queue = false ∧
        memRead d.queue.mem d.queue.rd = some c.curRaw) := by
  unfold startedBytes
  obtain ⟨hst, hsome, b, hb, rfl⟩ | ⟨hst, _, rfl⟩ | ⟨hst, _, rfl⟩ | ⟨hst, _, rfl⟩ := consume_eq_next.1 h
  · exact .inr ⟨rfl, if_pos ⟨hst, rfl⟩, hsome, hb⟩
  · exact .inl ⟨rfl, by simp⟩
  · exact .inl ⟨countCycle_queue _ _, by simp [hst]⟩
  · exact .inl ⟨rfl, by simp [hst]⟩

theorem loadMs_le (b : Byte) : (loadMs b).toNat ≤ 1280 := by
  have hle := magnitude_le b
  rw [(loadMs_codecMs_toNat b).1, durationMs]
  omega

/-- The consumer keeps the ranges of `ms_left` and `sub` (10_state.md R29). -/
theorem consume_ranges {p : Params} {d c : Dlcp} (h : consume p d = .next c) (hms : d.msLeft.toNat ≤ 1280)
    (hsub : d.sub < p.k) : c.msLeft.toNat ≤ 1280 ∧ c.sub < p.k := by
  obtain ⟨_, _, b, _, rfl⟩ | ⟨_, _, rfl⟩ | ⟨_, hne, rfl⟩ | ⟨_, _, rfl⟩ := consume_eq_next.1 h
  · exact ⟨loadMs_le b, Nat.zero_lt_of_lt hsub⟩
  · exact ⟨hms, hsub⟩
  · obtain ⟨hfalls, hlt⟩ := countCycle_ranges hne hsub
    exact ⟨hfalls.trans hms, hlt⟩
  · exact ⟨hms, hsub⟩

theorem keepsQueue_consume {p : Params} {d c : Dlcp} (h : RbfInv p.n d.queue) (hc : consume p d = .next c) :
    KeepsQueue p.n d.queue c.queue { accepted := [], taken := startedBytes d c } := by
  obtain ⟨hsame, hnone⟩ | ⟨hpop, hstart, hsome, hb⟩ := consume_queue_or_start hc
  · rw [hsame, hnone]
    exact .refl h
  · rw [hpop, hstart]
    exact .popWrites h hsome hb

/-- The producer's writes go behind the bytes the consumer leaves, both agents acting on the pre-state. -/
theorem keepsQueue_produce {p : Params} {d c : Dlcp} (h : RbfInv p.n d.queue) (hc : consume p d = .next c)
    (hfree : rbfFull p.n d.queue = false) (v : Byte) :
    KeepsQueue p.n d.queue (produce p.n d v c).queue { accepted := [v], taken := startedBytes d c } := by
  obtain ⟨hsame, hnone⟩ | ⟨hpop, hstart, hsome, hb⟩ := consume_queue_or_start hc
  · have hpush : (produce p.n d v c).queue = pushWrites p.n d.queue v := by rw [produce, hsame]; rfl
    rw [hpush, hnone]
    exact .pushWrites h hfree v
  · have hboth : (produce p.n d v c).queue = popWrites p.n (pushWrites p.n d.queue v) := by rw [produce, hpop]; rfl
    rw [hboth, hstart]
    exact .both h hfree hsome v hb

/-- The edge without reset: an accepted byte goes in, a started one goes out. -/
theorem keepsQueue_edge {p : Params} {d c : Dlcp} (h : RbfInv p.n d.queue) (hc : consume p d = .next c) (rxValid : Bool)
    (v : Byte) :
    KeepsQueue p.n d.queue (if pushOk p.n d.queue false rxValid then produce p.n d v c else c).queue
      { accepted := if pushOk p.n d.queue false rxValid then [v] else [], taken := startedBytes d c } := by
  cases hok : pushOk p.n d.queue false rxValid with
  | false => exact keepsQueue_consume h hc
  | true => exact keepsQueue_produce h hc (not_rbfFull_of_pushOk hok) v

/-! ### A NOP or SEND of a good state -/

theorem dlcpCanRun_of_goodState {s : State} (h : GoodState s) : DlcpCanRun s := by
  refine ⟨dlcpInRange_of_goodState h, fun _ hne => ?_⟩
  obtain ⟨_, ⟨hinv, _⟩, _⟩ := h
  obtain ⟨b, hb⟩ := exists_head_of_rbfInv hinv (rbfEmpty_eq_false.2 hne)
  exact Option.isSome_iff_exists.2 ⟨b, hb⟩

/-- An operation without reset is the cycle rule with `rst = 0`, and its entry in the log is read off the ports and the
consumer's registers. -/
theorem exec_dlcpEntry_of_active {i : Instr} (h : DlcpActive i) :
    ∃ rxValid v, (∀ s, exec i s = dlcpCycle false rxValid v s) ∧
      ∀ s t, dlcpEntry i s t =
        { accepted := if rxValid && t.dlcpOut.rxOk then [v] else [], taken := startedBytes s.dlcp t.dlcp } := by
  obtain rfl | ⟨v, rfl⟩ := h
  · exact ⟨false, 0x00#8, fun _ => rfl, fun _ _ => rfl⟩
  · exact ⟨true, v, fun _ => rfl, fun _ _ => rfl⟩

/-- The cycle of the operation `i` from a good state `s`, in which the consumer makes `c` of the controller. -/
structure GoodCycle (i : Instr) (s : State) (c : Dlcp) (t : State) : Prop extends ActiveCycle s c t where
  good : GoodState t
  keeps : KeepsQueue s.params.n s.dlcp.queue t.dlcp.queue (dlcpEntry i s t)
  /-- Without an accepted byte the consumer acts alone. -/
  alone : (dlcpEntry i s t).accepted = [] → t.dlcp = c

theorem exists_goodCycle {i : Instr} {s : State} (hi : DlcpActive i) (hgood : GoodState s) :
    ∃ c t, consume s.params s.dlcp = .next c ∧ exec i s = .next t ∧ GoodCycle i s c t := by
  obtain ⟨c, hc⟩ := exists_consume (dlcpCanRun_of_goodState hgood)
  obtain ⟨t, hexec, hactive⟩ := exists_activeCycle hi (dlcpInRange_of_goodState hgood) hc
  refine ⟨c, t, hc, hexec, ?_⟩
  obtain ⟨hwf, ⟨hinv, hms, hsub⟩, hrest⟩ := hgood
  obtain ⟨hms', hsub'⟩ := consume_ranges hc hms hsub
  obtain ⟨rxValid, v, hcycle, hentry⟩ := exec_dlcpEntry_of_active hi
  rw [hcycle] at hexec
  obtain ⟨_, e, hedge, rfl⟩ := dlcpCycle_eq_next.1 hexec
  obtain ⟨hreset, _⟩ | ⟨_, c', hc', rfl⟩ := dlcpEdge_eq_next.1 hedge
  · exact nomatch hreset
  obtain rfl : c' = c := Host.Outcome.next.inj (hc'.symm.trans hc)
  have hkeep := keepsQueue_edge hinv hc rxValid v
  have hlog : dlcpEntry i s (s.setDlcp (if pushOk s.params.n s.dlcp.queue false rxValid
        then produce s.params.n s.dlcp v c' else c') (dlcpOutputs s.params.n s.dlcp false rxValid)) =
      { accepted := if pushOk s.params.n s.dlcp.queue false rxValid then [v] else []
        taken := startedBytes s.dlcp c' } := by
    rw [hentry, State.setDlcp_dlcpOut, State.setDlcp_dlcp, dlcpOutputs]
    cases hok : pushOk s.params.n s.dlcp.queue false rxValid with
    | false => rw [Bool.and_false]; rfl
    | true => rw [push_of_pushOk hok]; rfl
  refine
    { toActiveCycle := hactive
      good := ⟨hwf, ⟨hkeep.inv, ?ranges⟩, hrest⟩
      keeps := hlog ▸ hkeep
      alone := fun hnone => ?alone }
  case ranges => split <;> exact ⟨hms', hsub'⟩
  case alone =>
    rw [hlog] at hnone
    cases hok : pushOk s.params.n s.dlcp.queue false rxValid with
    | false => rw [State.setDlcp_dlcp]; rfl
    | true => simp [hok] at hnone

/-! ### Every sequence of cycles (R161) -/

theorem dlcpLog_cons {w : PortWord} {ws : List PortWord} {s t : State} (h : exec (decode w) s = .next t) :
    dlcpLog (w :: ws) s = joinLog (dlcpEntry (decode w) s t) (dlcpLog ws t) := by
  rw [dlcpLog, h]

/-- Settles O46: every cycle keeps the queue, and `KeepsQueue` composes along the run. -/
theorem commandsStartInTheOrderTheyWereAccepted : Obligations.CommandsStartInTheOrderTheyWereAccepted := by
  intro s ws hgood hws
  suffices hrun : ∃ t, driveWords ws s = .next t ∧
      KeepsQueue s.params.n s.dlcp.queue t.dlcp.queue (dlcpLog ws s) by
    obtain ⟨t, hnext, hkeep⟩ := hrun
    exact ⟨t, hnext, hkeep.order⟩
  induction ws generalizing s with
  | nil =>
    obtain ⟨_, ⟨hinv, _⟩, _⟩ := hgood
    exact ⟨s, rfl, .refl hinv⟩
  | cons w ws ih =>
    obtain ⟨hw, hws⟩ := List.forall_mem_cons.1 hws
    obtain ⟨c, t, _, hexec, hcycle⟩ := exists_goodCycle (dlcpActive_decode hw) hgood
    obtain ⟨u, hrun, hkeep⟩ := ih t hcycle.good hws
    rw [hcycle.params] at hkeep
    exact ⟨u, (driveWords_cons_of_exec hexec _).trans hrun, dlcpLog_cons hexec ▸ hcycle.keeps.trans hkeep⟩

/-! ### Every interleaving of the two agents' atomic actions (20_memory.md R57) -/

/-- An atomic action of a controller that satisfies the invariant is not enabled, or runs and keeps the queue. -/
theorem dlcpAct_cases {p : Params} {d : Dlcp} (h : DlcpInv p d) (a : DlcpAction) :
    dlcpAct p d a = .refused .actionNotEnabled ∨
      ∃ d' log, dlcpAct p d a = .next (d', log) ∧ DlcpInv p d' ∧ KeepsQueue p.n d.queue d'.queue log := by
  have ⟨hinv, hms, hsub⟩ := h
  have hconsumed : ∀ c, consume p d = .next c →
      DlcpInv p c ∧ KeepsQueue p.n d.queue c.queue { accepted := [], taken := startedBytes d c } := fun c hc =>
    have hkeep := keepsQueue_consume hinv hc
    ⟨⟨hkeep.inv, consume_ranges hc hms hsub⟩, hkeep⟩
  cases a with
  | push v =>
    have hkeep := keepsQueue_atomicPush hinv v
    exact .inr ⟨_, _, rfl, ⟨hkeep.inv, hms, hsub⟩, hkeep⟩
  | start =>
    by_cases hact : consumerAction d = .start
    · obtain ⟨hst, hsome⟩ := consumerAction_eq_start.1 hact
      obtain ⟨b, hb⟩ := exists_head_of_rbfInv hinv hsome
      obtain ⟨hinv', hkeep⟩ := hconsumed _ (consume_eq_next.2 (.inl ⟨hst, hsome, b, hb, rfl⟩))
      have hstarted : startedBytes d (startWith p.n d b) = [b] := if_pos ⟨hst, rfl⟩
      exact .inr ⟨_, _, by rw [dlcpAct, if_pos hact, memFetch_eq_next.2 hb]; rfl, hinv', hstarted ▸ hkeep⟩
    · exact .inl (if_neg hact)
  | count =>
    by_cases hact : consumerAction d = .count
    · obtain ⟨hst, hleft⟩ := consumerAction_eq_count.1 hact
      obtain ⟨hinv', hkeep⟩ := hconsumed _ (consume_eq_next.2 (.inr (.inr (.inl ⟨hst, hleft, rfl⟩))))
      have hstarted : startedBytes d (countCycle p.k d) = [] := by simp [startedBytes, hst]
      rw [hstarted] at hkeep
      exact .inr ⟨_, _, if_pos hact, hinv', hkeep⟩
    · exact .inl (if_neg hact)
  | finish =>
    by_cases hact : consumerAction d = .finish
    · obtain ⟨hst, hleft⟩ := consumerAction_eq_finish.1 hact
      obtain ⟨hinv', hkeep⟩ := hconsumed _ (consume_eq_next.2 (.inr (.inl ⟨hst, hleft, rfl⟩)))
      have hstarted : startedBytes d (finishCycle d) = [] := by simp [startedBytes]
      rw [hstarted] at hkeep
      exact .inr ⟨_, _, if_pos hact, hinv', hkeep⟩
    · exact .inl (if_neg hact)

/-- A schedule of atomic actions is refused at an action that is not enabled, or runs to its end and keeps the queue. -/
theorem dlcpInterleave_cases {p : Params} {d : Dlcp} (h : DlcpInv p d) (acts : List DlcpAction) :
    dlcpInterleave p acts d = .refused .actionNotEnabled ∨
      ∃ d' log, dlcpInterleave p acts d = .next (d', log) ∧ DlcpInv p d' ∧ KeepsQueue p.n d.queue d'.queue log := by
  induction acts generalizing d with
  | nil =>
    have ⟨hinv, _⟩ := h
    exact .inr ⟨d, emptyLog, rfl, h, .refl hinv⟩
  | cons a acts ih =>
    obtain hrefused | ⟨d', log, hact, hinv', hkeep⟩ := dlcpAct_cases h a
    · exact .inl (by rw [dlcpInterleave, hrefused]; rfl)
    · rw [dlcpInterleave, hact, andThen_next]
      obtain hrefused | ⟨d'', log', hrest, hinv'', hkeep'⟩ := ih hinv'
      · exact .inl (by rw [hrefused]; rfl)
      · exact .inr ⟨d'', joinLog log log', by rw [hrest]; rfl, hinv'', hkeep.trans hkeep'⟩

/-- Settles O47: a schedule never faults, and where it ends it has kept the queue. -/
theorem controllerInterleavingsKeepEveryByteInOrder : Obligations.ControllerInterleavingsKeepEveryByteInOrder := by
  intro p d acts _ h
  obtain hrefused | ⟨d', log, hrun, hinv', hkeep⟩ := dlcpInterleave_cases h acts
  · rw [hrefused]
    exact ⟨fun _ => nofun, fun _ _ => nofun⟩
  · rw [hrun]
    refine ⟨fun _ => nofun, fun e log' hend => ?_⟩
    obtain ⟨rfl, rfl⟩ := Prod.mk.inj (Host.Outcome.next.inj hend)
    exact ⟨hinv', hkeep.order⟩

/-! ### The length of an actuation (R159) -/

/-- A command just started has its whole duration before it. -/
theorem remainingCycles_of_started {k : Nat} {d : Dlcp} {b : Byte} (hleft : d.msLeft = loadMs b) (hsub : d.sub = 0) :
    remainingCycles k d = durationMs b * k := by
  rw [remainingCycles_eq_sub, hleft, hsub, (loadMs_codecMs_toNat b).1, Nat.sub_zero]

theorem actuate_curRaw (k : Nat) (d : Dlcp) : (actuate k d).curRaw = d.curRaw := by
  by_cases hms : d.msLeft = 0#11
  · rw [actuate_of_elapsed hms, finishCycle_curRaw]
  · rw [actuate_of_running hms, countCycle_curRaw]

theorem actuate_iterate_curRaw (k n : Nat) (d : Dlcp) : ((actuate k)^[n] d).curRaw = d.curRaw := by
  induction n generalizing d with
  | zero => rfl
  | succ n ih => rw [Function.iterate_succ_apply, ih, actuate_curRaw]

/-- Settles O44: the first cycle is the START of `b`, and from then on what is in flight is `actuate` once per word. -/
theorem anActuationLastsItsDuration : Obligations.AnActuationLastsItsDuration := by
  intro s b w ws hgood hidle hne hb hactive hlen
  obtain ⟨hw, hws⟩ := List.forall_mem_cons.1 hactive
  obtain ⟨c, t, hc, hexec, hcycle⟩ := exists_goodCycle (dlcpActive_decode hw) hgood
  obtain rfl : startWith s.params.n s.dlcp b = c :=
    Host.Outcome.next.inj ((consume_of_start hidle hne hb).symm.trans hc)
  obtain ⟨hact, hraw, hdir, hleft, hsub⟩ := hcycle.registers
  have hremain : remainingCycles t.params.k t.dlcp = durationMs b * s.params.k :=
    hcycle.params ▸ remainingCycles_of_started hleft hsub
  have hrange := dlcpInRange_of_goodState hcycle.good
  have ⟨_, _, _, _, _, hlt⟩ := hrange
  rw [← hremain] at hlen ⊢
  obtain ⟨u, hrun, hu⟩ := driveWords_of_act hrange hact hws hlen
  refine ⟨u, (driveWords_cons_of_exec hexec _).trans hrun, ?raw, ?dir, ?st⟩
  case raw =>
    have hkept : u.dlcp.inFlight.curRaw = t.dlcp.curRaw := hu ▸ actuate_iterate_curRaw ..
    exact hkept.trans hraw
  case dir =>
    have hkept : u.dlcp.inFlight.curDir = t.dlcp.curDir := hu ▸ actuate_iterate_curDir ..
    exact hkept.trans hdir
  case st =>
    have hend : u.dlcp.inFlight.st = .act ↔ ws.length ≤ remainingCycles t.params.k t.dlcp :=
      hu ▸ actuate_iterate_st (d := t.dlcp.inFlight) hact hlt hlen
    exact hend

/-! ### The drain bound (R171) -/

/-- At most so many cycles without an accepted byte until nothing is pending and nothing in flight: each pending command
takes its START, at most `1280 * K` COUNTs and its FINISH, the one in flight its remaining COUNTs and its FINISH. -/
def cyclesToDrain (p : Params) (d : Dlcp) : Nat :=
  rbfCount p.n d.queue * (1280 * p.k + 2) + if d.st = .act then remainingCycles p.k d + 1 else 0

theorem cyclesToDrain_of_act {p : Params} {d : Dlcp} (h : d.st = .act) :
    cyclesToDrain p d = rbfCount p.n d.queue * (1280 * p.k + 2) + (remainingCycles p.k d + 1) := by
  rw [cyclesToDrain, if_pos h]

theorem cyclesToDrain_of_idle {p : Params} {d : Dlcp} (h : d.st = .idle) :
    cyclesToDrain p d = rbfCount p.n d.queue * (1280 * p.k + 2) := by
  simp [cyclesToDrain, h]

theorem drained_of_cyclesToDrain_eq_zero {p : Params} {d : Dlcp} (h : DlcpInv p d) (hzero : cyclesToDrain p d = 0) :
    Drained d := by
  have ⟨⟨_, _, hrd, hwr, _⟩, _⟩ := h
  cases hst : d.st with
  | act =>
    rw [cyclesToDrain_of_act hst] at hzero
    omega
  | idle =>
    rw [cyclesToDrain_of_idle hst, Nat.mul_eq_zero] at hzero
    refine ⟨hst, (rbfEmpty_iff_rbfCount hrd hwr).2 ?_⟩
    omega

/-- What is in flight counts as one more command. -/
theorem cyclesToDrain_le {p : Params} {d : Dlcp} (h : d.msLeft.toNat ≤ 1280) :
    cyclesToDrain p d ≤ (rbfCount p.n d.queue + 1) * (1280 * p.k + 2) := by
  have hremain : remainingCycles p.k d ≤ 1280 * p.k := by
    rw [remainingCycles_eq_sub]
    exact (Nat.sub_le ..).trans (Nat.mul_le_mul_right _ h)
  rw [cyclesToDrain, Nat.add_mul]
  split <;> omega

/-- The consumer's action of every cycle brings the end one cycle nearer, or it is reached. -/
theorem cyclesToDrain_consume {p : Params} {d c : Dlcp} (h : DlcpInv p d) (hc : consume p d = .next c) :
    cyclesToDrain p c ≤ cyclesToDrain p d - 1 := by
  obtain ⟨⟨_, _, hrd, hwr, _⟩, _, hsub⟩ := h
  obtain ⟨hst, hsome, b, _, rfl⟩ | ⟨hst, hms, rfl⟩ | ⟨hst, hms, rfl⟩ | ⟨hst, hempty, rfl⟩ := consume_eq_next.1 hc
  case inl =>
    have hpop := rbfCount_popWrites hrd hwr hsome
    have hload : durationMs b * p.k ≤ 1280 * p.k :=
      Nat.mul_le_mul_right _ ((loadMs_codecMs_toNat b).1 ▸ loadMs_le b)
    rw [cyclesToDrain_of_act (startWith_st ..), cyclesToDrain_of_idle hst, startWith_queue, ← hpop, Nat.add_mul,
      remainingCycles_of_started (startWith_msLeft ..) (startWith_sub ..)]
    omega
  case inr.inl =>
    rw [cyclesToDrain_of_idle (finishCycle_st d), cyclesToDrain_of_act hst, finishCycle_queue]
    omega
  case inr.inr.inl =>
    have hfewer := remainingCycles_countCycle hms hsub
    rw [cyclesToDrain_of_act ((countCycle_st ..).trans hst), cyclesToDrain_of_act hst, countCycle_queue]
    omega
  case inr.inr.inr =>
    rw [cyclesToDrain_of_idle hst, rbfCount_of_rbfEmpty hempty]
    omega

/-- A run in which no byte is accepted brings the end one cycle nearer in each of its cycles. -/
theorem exists_run_cyclesToDrain_le {s : State} {ws : List PortWord} (hgood : GoodState s)
    (hws : ∀ w ∈ ws, activeDlcpWord w = true) (hnone : (dlcpLog ws s).accepted = []) :
    ∃ t, driveWords ws s = .next t ∧ DlcpInv s.params t.dlcp ∧
      cyclesToDrain s.params t.dlcp ≤ cyclesToDrain s.params s.dlcp - ws.length := by
  induction ws generalizing s with
  | nil =>
    obtain ⟨_, hinv, _⟩ := hgood
    exact ⟨s, rfl, hinv, le_rfl⟩
  | cons w ws ih =>
    obtain ⟨hw, hws⟩ := List.forall_mem_cons.1 hws
    obtain ⟨c, t, hc, hexec, hcycle⟩ := exists_goodCycle (dlcpActive_decode hw) hgood
    rw [dlcpLog_cons hexec] at hnone
    obtain ⟨hnow, hlater⟩ := List.append_eq_nil_iff.1 hnone
    obtain ⟨u, hrun, hinv, hle⟩ := ih hcycle.good hws hlater
    obtain ⟨_, hinvs, _⟩ := hgood
    have hstep := cyclesToDrain_consume hinvs hc
    rw [hcycle.params] at hinv hle
    rw [hcycle.alone hnow] at hle
    rw [List.length_cons]
    exact ⟨u, (driveWords_cons_of_exec hexec _).trans hrun, hinv, by omega⟩

/-- Settles O48: the words are as many as `cyclesToDrain` at most, and each brings the end nearer. -/
theorem queueDrainsWithinItsBound : Obligations.QueueDrainsWithinItsBound := by
  intro s ws hgood hws hnone hlen
  obtain ⟨t, hrun, hinv, hle⟩ := exists_run_cyclesToDrain_le hgood hws hnone
  obtain ⟨_, ⟨_, hms, _⟩, _⟩ := hgood
  have hbound := cyclesToDrain_le (p := s.params) hms
  exact ⟨t, hrun, drained_of_cyclesToDrain_eq_zero hinv (by omega)⟩

end Sys2Proof.Machine

/-!
# The whole machine (00_scope.md R12, R17; 60_exceptions.md R213 to R215; 70_reset_and_hazards.md R251, R252)

Every operation answers as an update of its own block (`exec_frame`), and from a good state it has a next state, which is
good (`exists_exec_of_goodState`); the step and every launched run follow. The host's schedule plays no part in an
operation (`exec_setInputs`), so the steps of a schedule are its words' operations.
-/
namespace Sys2Proof.Machine

/-! ### The frame of an operation (log entry 1) -/

/-- An operation updates the block of its format. -/
theorem exec_frame {i : Instr} {s t : State} (h : exec i s = .next t) :
    ((encode i).format = .dlcpCyc ∧ ∃ d out, t = s.setDlcp d out) ∨
    ((encode i).format = .rbfCyc ∧ ∃ q out, t = s.setRbf q out) ∨
    ((encode i).format = .idxCyc ∧ ∃ value out, t = s.setIdx value out) ∨
    ((encode i).format = .cmd ∧ ∃ ports, t = s.setCodec ports) := by
  cases i with
  | dlcpNop | dlcpSend | dlcpReset =>
    obtain ⟨_, d, _, ht⟩ := dlcpCycle_eq_next.1 h
    exact .inl ⟨rfl, d, _, ht⟩
  | rbfNop | rbfPush | rbfPop | rbfPushpop | rbfReset =>
    obtain ⟨_, head, _, ht⟩ := rbfCycle_eq_next.1 h
    exact .inr (.inl ⟨rfl, _, _, ht⟩)
  | idxHold | idxAdv | idxReset =>
    obtain ⟨_, ht⟩ := idxCycle_eq_next.1 h
    exact .inr (.inr (.inl ⟨rfl, _, _, ht⟩))
  | cmdUp | cmdDown => exact .inr (.inr (.inr ⟨rfl, _, next_eq_next.1 h⟩))

theorem params_inputs_of_exec {i : Instr} {s t : State} (h : exec i s = .next t) :
    t.params = s.params ∧ t.inputs = s.inputs := by
  obtain ⟨_, _, _, rfl⟩ | ⟨_, _, _, rfl⟩ | ⟨_, _, _, rfl⟩ | ⟨_, _, rfl⟩ := exec_frame h <;> exact ⟨rfl, rfl⟩

/-- Settles O58: the update of one block leaves the fields of the others. -/
theorem everyOperationTouchesItsOwnBlockOnly : Obligations.EveryOperationTouchesItsOwnBlockOnly := by
  intro i s t h
  obtain ⟨hparams, hinputs⟩ := params_inputs_of_exec h
  refine ⟨hparams, hinputs, ?_⟩
  obtain ⟨hown, _, _, rfl⟩ | ⟨hown, _, _, rfl⟩ | ⟨hown, _, _, rfl⟩ | ⟨hown, _, rfl⟩ := exec_frame h <;> simp [hown]

/-! ### Good states -/

/-- A reset cycle of the controller from a good state. -/
theorem exists_dlcpReset_of_goodState {s : State} (h : GoodState s) :
    ∃ t, exec .dlcpReset s = .next t ∧ GoodState t := by
  refine ⟨_, exec_dlcpReset (dlcpInRange_of_goodState h), ?_⟩
  obtain ⟨hwf, ⟨hinv, _, hsub⟩, hrest⟩ := h
  exact ⟨hwf, ⟨rbfInv_rbfResetRegs hinv, Nat.zero_le _, Nat.zero_lt_of_lt hsub⟩, hrest⟩

theorem exists_dlcpActive_of_goodState {i : Instr} {s : State} (hi : DlcpActive i) (h : GoodState s) :
    ∃ t, exec i s = .next t ∧ GoodState t := by
  obtain ⟨_, t, _, hexec, hcycle⟩ := exists_goodCycle hi h
  exact ⟨t, hexec, hcycle.good⟩

theorem exists_rbfCycle_of_goodState {s : State} (h : GoodState s) (rst push pop : Bool) (data : Byte) :
    ∃ t, rbfCycle rst push pop data s = .next t ∧ GoodState t := by
  have ⟨hcap, _⟩ := rbfCanRun_of_goodState h
  obtain ⟨head, _, hcycle⟩ := exists_rbfCycle_of_rbfInv hcap (rbfInv_of_goodState h) rst push pop data
  refine ⟨_, hcycle, ?_⟩
  obtain ⟨hwf, hdlcp, hrbf, hidx⟩ := h
  exact ⟨hwf, hdlcp, rbfInv_rbfEdge hrbf rst push pop data, hidx⟩

/-- What a cycle of the IDX writes is below the limit (10_state.md R22). -/
theorem exists_idxCycle_of_goodState {s : State} (h : GoodState s) (rst adv : Bool) :
    ∃ t, idxCycle rst adv s = .next t ∧ GoodState t := by
  obtain ⟨hwf, hdlcp, hrbf, hidx⟩ := h
  have hlimit : 0 < s.params.limit := Nat.zero_lt_of_lt hidx
  refine ⟨_, idxCycle_eq_next.2 ⟨⟨hlimit, hidx⟩, rfl⟩, hwf, hdlcp, hrbf, ?_⟩
  rw [State.setIdx_idx]
  split
  · exact hlimit
  · split
    · exact wrapNext_lt hlimit _
    · exact hidx

/-- From a good state every operation has a next state, and it is good. -/
theorem exists_exec_of_goodState {s : State} (h : GoodState s) (i : Instr) : ∃ t, exec i s = .next t ∧ GoodState t := by
  cases i with
  | dlcpNop => exact exists_dlcpActive_of_goodState (.inl rfl) h
  | dlcpSend v => exact exists_dlcpActive_of_goodState (.inr ⟨v, rfl⟩) h
  | dlcpReset => exact exists_dlcpReset_of_goodState h
  | rbfNop | rbfPush | rbfPop | rbfPushpop | rbfReset => exact exists_rbfCycle_of_goodState h _ _ _ _
  | idxHold | idxAdv | idxReset => exact exists_idxCycle_of_goodState h _ _
  | cmdUp | cmdDown => exact ⟨_, rfl, h⟩

/-- The host's schedule is no part of what makes a state good. -/
theorem goodState_fetch {s : State} (h : GoodState s) : GoodState (fetch s).2 := by
  obtain ⟨_, hfetch⟩ | ⟨w, ws, _, hfetch⟩ := fetch_cases s <;> rw [hfetch] <;> exact h

theorem exists_step_of_goodState {s : State} (h : GoodState s) : ∃ t, step s = .next t ∧ GoodState t :=
  exists_exec_of_goodState (goodState_fetch h) _

/-- Settles O52: the step has one next state, and it is good. -/
theorem everyStepKeepsTheInvariant : Obligations.EveryStepKeepsTheInvariant := by
  intro s t h hstep
  obtain ⟨u, hstep', hgood⟩ := exists_step_of_goodState h
  obtain rfl : t = u := Host.Outcome.next.inj (hstep.symm.trans hstep')
  exact hgood

/-- Settles O53: `exists_exec_of_goodState` of every operation and of the one the step performs. -/
theorem nothingStopsInAGoodState : Obligations.NothingStopsInAGoodState := by
  intro s h
  refine ⟨fun i => ?operation, ?step⟩
  case operation =>
    obtain ⟨t, hexec, _⟩ := exists_exec_of_goodState h i
    exact ⟨t, hexec⟩
  case step =>
    obtain ⟨t, hstep, _⟩ := exists_step_of_goodState h
    exact ⟨t, hstep⟩

/-! ### The host's schedule (log entries 3 and 4) -/

theorem step_of_inputs_nil {s : State} (h : s.inputs = []) : step s = exec .dlcpNop s := by
  obtain ⟨_, hfetch⟩ | ⟨w, ws, hcons, _⟩ := fetch_cases s
  · rw [step, hfetch]
    rfl
  · exact nomatch h.symm.trans hcons

theorem step_of_inputs_cons {s : State} {w : PortWord} {ws : List PortWord} (h : s.inputs = w :: ws) :
    step s = exec (decode w) (s.setInputs ws) := by
  obtain ⟨hnil, _⟩ | ⟨w', ws', hcons, hfetch⟩ := fetch_cases s
  · exact nomatch h.symm.trans hnil
  · obtain ⟨rfl, rfl⟩ := List.cons.inj (h.symm.trans hcons)
    rw [step, hfetch]

/-- Settles O7: the two cases of `fetch`. -/
theorem stepRunsTheDecodedOperation : Obligations.StepRunsTheDecodedOperation := by
  refine ⟨fun s w ws i hinputs hdecode => ?scheduled, fun s hinputs => step_of_inputs_nil hinputs⟩
  case scheduled => exact hdecode ▸ step_of_inputs_cons hinputs

theorem andThen_assoc {α β γ : Type} (r : Res α) (k : α → Res β) (l : β → Res γ) :
    andThen (andThen r k) l = andThen r fun a => andThen (k a) l := by
  cases r <;> rfl

theorem dlcpCycle_setInputs (rst rxValid : Bool) (rxByte : Byte) (s : State) (ws : List PortWord) :
    dlcpCycle rst rxValid rxByte (s.setInputs ws) =
      andThen (dlcpCycle rst rxValid rxByte s) fun t => .next (t.setInputs ws) := by
  simp only [dlcpCycle, andThen_assoc]
  rfl

theorem rbfCycle_setInputs (rst push pop : Bool) (data : Byte) (s : State) (ws : List PortWord) :
    rbfCycle rst push pop data (s.setInputs ws) =
      andThen (rbfCycle rst push pop data s) fun t => .next (t.setInputs ws) := by
  simp only [rbfCycle, andThen_assoc]
  rfl

theorem idxCycle_setInputs (rst adv : Bool) (s : State) (ws : List PortWord) :
    idxCycle rst adv (s.setInputs ws) = andThen (idxCycle rst adv s) fun t => .next (t.setInputs ws) := by
  simp only [idxCycle, andThen_assoc]
  rfl

/-- No operation reads or writes the schedule. -/
theorem exec_setInputs (i : Instr) (s : State) (ws : List PortWord) :
    exec i (s.setInputs ws) = andThen (exec i s) fun t => .next (t.setInputs ws) := by
  cases i with
  | dlcpNop | dlcpSend | dlcpReset => exact dlcpCycle_setInputs ..
  | rbfNop | rbfPush | rbfPop | rbfPushpop | rbfReset => exact rbfCycle_setInputs ..
  | idxHold | idxAdv | idxReset => exact idxCycle_setInputs ..
  | cmdUp | cmdDown => rfl

/-- As many steps as words scheduled are the words' operations. -/
theorem stepTimes_setInputs_append (ws rest : List PortWord) (s : State) :
    stepTimes ws.length (s.setInputs (ws ++ rest)) = driveWords ws (s.setInputs rest) := by
  induction ws generalizing s with
  | nil => rfl
  | cons w ws ih =>
    have hstep : step (s.setInputs (w :: ws ++ rest)) = exec (decode w) (s.setInputs (ws ++ rest)) :=
      step_of_inputs_cons rfl
    rw [List.length_cons, stepTimes_succ, hstep, driveWords_cons, exec_setInputs, exec_setInputs, andThen_assoc,
      andThen_assoc]
    exact congrArg (andThen _) (funext ih)

/-- Settles O8: the state is itself with its own schedule set. -/
theorem scheduledWordsRunInOrder : Obligations.ScheduledWordsRunInOrder := by
  intro s ws rest h
  have hself : s = s.setInputs (ws ++ rest) := by rw [← h]; rfl
  rw [hself]
  exact stepTimes_setInputs_append ws rest s

/-! ### Launch and runs (R251, R252) -/

/-- An RBF of which no slot was ever written is well-formed when its indices are 0 (10_state.md R40). -/
theorem rbfInv_blank (cap : Nat) : RbfInv cap { mem := [], rd := 0, wr := 0 } :=
  ⟨rfl, fun _ => nofun, slots_pos cap, slots_pos cap, fun j hj => by simp [rbfCount] at hj⟩

theorem goodState_resetWith {p : Params} (h : p.wf = true) : GoodState (State.resetWith p) := by
  obtain ⟨_, _, hk, hlimit⟩ := params_wf_iff.1 h
  exact ⟨h, ⟨rbfInv_blank _, Nat.zero_le _, hk⟩, rbfInv_blank _, hlimit⟩

/-- Settles O51: the registers are those `resetWith` writes, and both RBFs are blank. -/
theorem resetStateHoldsTheTableValuesAndTheInvariant : Obligations.ResetStateHoldsTheTableValuesAndTheInvariant :=
  ⟨fun _ => goodState_resetWith, goodState_resetWith rfl,
    fun _ => ⟨rfl, rfl, rfl, rfl, rfl, rfl, rfl, rfl, rfl, rfl, fun _ => ⟨rfl, rfl⟩⟩⟩

/-- With permitted parameters the launch looks at the words alone. -/
theorem launch_of_params_wf {p : Params} (h : p.wf = true) (ws : List PortWord) :
    launch p ws =
      if runWf ws then .next ((State.resetWith p).setInputs ws) else .refused .runWithoutReset := by
  obtain ⟨hc, hn, hk, hlimit⟩ := params_wf_iff.1 h
  have hcap : ¬(p.c < 2 ∨ p.n < 2) := by omega
  rw [launch, if_neg hcap, if_neg (Nat.not_lt.2 hk), if_neg (Nat.not_lt.2 hlimit)]

/-- Settles O55: the checks of `launch` in their order. -/
theorem launchRefusesExactlyWhatTheSpecRefuses : Obligations.LaunchRefusesExactlyWhatTheSpecRefuses := by
  intro p ws
  refine ⟨fun hcap => ?capacity, fun hc hn hk => ?clock, fun hc hn hk hlimit => ?limit, fun hwf hrun => ?noRun,
    fun hwf hrun => ?run⟩
  case capacity => exact if_pos hcap
  case clock =>
    have hcap : ¬(p.c < 2 ∨ p.n < 2) := by omega
    rw [launch, if_neg hcap, if_pos hk]
  case limit => exact launch_of_limit_eq_zero hc hn hk (Nat.lt_one_iff.1 hlimit) ws
  case noRun => rw [launch_of_params_wf hwf, if_neg (Bool.eq_false_iff.1 hrun)]
  case run => exact ⟨_, by rw [launch_of_params_wf hwf, if_pos hrun], rfl, rfl, rfl⟩

/-- From a good state every list of words runs, to a good state with the same parameters and schedule. -/
theorem exists_driveWords_of_goodState {s : State} (h : GoodState s) (ws : List PortWord) :
    ∃ t, driveWords ws s = .next t ∧ GoodState t ∧ t.params = s.params ∧ t.inputs = s.inputs := by
  induction ws generalizing s with
  | nil => exact ⟨s, rfl, h, rfl, rfl⟩
  | cons w ws ih =>
    obtain ⟨t, hexec, hgood⟩ := exists_exec_of_goodState h (decode w)
    obtain ⟨hparams, hinputs⟩ := params_inputs_of_exec hexec
    obtain ⟨u, hrun, hgood', hparams', hinputs'⟩ := ih hgood
    exact ⟨u, (driveWords_cons_of_exec hexec _).trans hrun, hgood', hparams'.trans hparams, hinputs'.trans hinputs⟩

/-- Settles O54: the steps of the launched schedule are its words driven from the reset state, which is good. -/
theorem everyLaunchedRunReachesItsEnd : Obligations.EveryLaunchedRunReachesItsEnd := by
  intro p ws hwf hrun
  obtain ⟨t, hdrive, hgood, hparams, hinputs⟩ := exists_driveWords_of_goodState (goodState_resetWith hwf) ws
  have hsteps := stepTimes_setInputs_append ws [] (State.resetWith p)
  rw [List.append_nil] at hsteps
  have hrunWords : runWords p ws = driveWords ws (State.resetWith p) := by
    rw [runWords, launch_of_params_wf hwf, if_pos hrun, andThen_next, hsteps]
    rfl
  exact ⟨t, hrunWords.trans hdrive, hgood, hparams, hinputs⟩

/-! ### The byte in flight (10_state.md R29) -/

theorem commandMatches_consume {p : Params} {d c : Dlcp} (h : CommandMatches d) (hc : consume p d = .next c) :
    CommandMatches c := by
  obtain ⟨hdir, hms⟩ := h
  obtain ⟨_, _, b, _, rfl⟩ | ⟨_, _, rfl⟩ | ⟨_, hne, rfl⟩ | ⟨_, _, rfl⟩ := consume_eq_next.1 hc
  case inl => exact ⟨rfl, (loadMs_codecMs_toNat b).1.le⟩
  case inr.inl => exact ⟨hdir, hms⟩
  case inr.inr.inl =>
    rw [CommandMatches, countCycle_curDir, countCycle_curRaw]
    refine ⟨hdir, le_trans ?_ hms⟩
    by_cases hlast : d.sub = p.k - 1
    · have hdown := toNat_sub_one_add_one hne
      simp only [countCycle_of_last hlast]
      omega
    · simp only [countCycle_of_not_last hlast]
      exact le_rfl
  case inr.inr.inr => exact ⟨hdir, hms⟩

theorem commandMatches_dlcpEdge {p : Params} {d e : Dlcp} {rst rxValid : Bool} {rxByte : Byte} (h : CommandMatches d)
    (hedge : dlcpEdge p d rst rxValid rxByte = .next e) : CommandMatches e := by
  obtain ⟨_, rfl⟩ | ⟨_, c, hc, rfl⟩ := dlcpEdge_eq_next.1 hedge
  · exact ⟨(by decide : Direction.up = directionOf 0x00#8), Nat.zero_le _⟩
  · have hmatch := commandMatches_consume h hc
    split <;> exact hmatch

theorem commandMatches_exec {i : Instr} {s t : State} (h : CommandMatches s.dlcp) (hexec : exec i s = .next t) :
    CommandMatches t.dlcp := by
  cases i with
  | dlcpNop | dlcpSend | dlcpReset =>
    obtain ⟨_, d, hedge, rfl⟩ := dlcpCycle_eq_next.1 hexec
    exact commandMatches_dlcpEdge h hedge
  | rbfNop | rbfPush | rbfPop | rbfPushpop | rbfReset => exact dlcp_of_rbfCycle hexec ▸ h
  | idxHold | idxAdv | idxReset => exact (rings_of_idxCycle hexec).2 ▸ h
  | cmdUp | cmdDown => exact (rings_of_codecApply hexec).2 ▸ h

/-- Settles O57: START loads the registers from the byte, COUNT lowers the time, nothing else writes them but a reset. -/
theorem inFlightRegistersBelongToTheirByte : Obligations.InFlightRegistersBelongToTheirByte := by
  refine ⟨⟨rfl, Nat.zero_le _⟩, fun s t h hstep => commandMatches_exec (s := (fetch s).2) ?_ hstep⟩
  obtain ⟨_, hfetch⟩ | ⟨w, ws, _, hfetch⟩ := fetch_cases s <;> rw [hfetch] <;> exact h

/-! ### The stops, by name (60_exceptions.md R215; log entry 8) -/

theorem idxCycle_of_limit_le {s : State} (hlimit : 1 ≤ s.params.limit) (hvalue : s.params.limit ≤ s.idx)
    (rst adv : Bool) : idxCycle rst adv s = .fault .idxOutOfRange := by
  rw [idxCycle, idxReady, if_neg (Nat.ne_of_gt hlimit), if_neg (Nat.not_lt.2 hvalue)]
  rfl

theorem rbfReady_of_cap_lt {cap : Nat} (h : cap < 2) (q : Rbf) : rbfReady cap q = .refused .capacityBelowTwo := if_pos h

theorem rbfReady_of_index {cap : Nat} {q : Rbf} (hcap : 2 ≤ cap) (h : slots cap ≤ q.rd ∨ slots cap ≤ q.wr) :
    rbfReady cap q = .fault .rbfIndexOutOfRange := by
  have hout : ¬(q.rd < slots cap ∧ q.wr < slots cap) := by omega
  rw [rbfReady, if_neg (Nat.not_lt.2 hcap), if_neg hout]

/-- A slot without a byte. -/
theorem memFetch_of_none {m : Memory} {i : Nat} (h : memRead m i = none) : memFetch m i = .fault .slotBottom := by
  rw [memFetch, h]

/-- Each operation of the RBF is its cycle rule. -/
theorem exec_eq_rbfCycle {i : Instr} {v : Byte}
    (h : i ∈ [Instr.rbfNop, .rbfPush v, .rbfPop, .rbfPushpop v, .rbfReset]) :
    ∃ rst push pop data, ∀ s, exec i s = rbfCycle rst push pop data s := by
  simp only [List.mem_cons, List.not_mem_nil, or_false] at h
  obtain rfl | rfl | rfl | rfl | rfl := h <;> exact ⟨_, _, _, _, fun _ => rfl⟩

/-- A pop request on a slot without a byte. -/
theorem rbfCycle_of_bottom {s : State} (hrun : RbfCanRun s) (hne : s.rbf.rd ≠ s.rbf.wr)
    (hnone : memRead s.rbf.mem s.rbf.rd = none) (push : Bool) (data : Byte) :
    rbfCycle false push true data s = .fault .slotBottom := by
  have hvalid : popValid s.rbf false true = true := by simp [rbfEmpty, hne]
  rw [rbfCycle, rbfReady_eq_next.2 hrun, andThen_next, popByte, if_pos hvalid, memFetch_of_none hnone]
  rfl

/-- Each operation of the controller is its cycle rule, and only RESET has `rst = 1`. -/
theorem exec_eq_dlcpCycle {i : Instr} (h : DlcpActive i ∨ i = .dlcpReset) :
    ∃ rst rxValid rxByte, (∀ s, exec i s = dlcpCycle rst rxValid rxByte s) ∧ (i ≠ .dlcpReset → rst = false) := by
  obtain hactive | rfl := h
  · obtain ⟨rxValid, rxByte, hexec⟩ := hactive.exec_eq
    exact ⟨false, rxValid, rxByte, hexec, fun _ => rfl⟩
  · exact ⟨true, false, 0x00#8, fun _ => rfl, fun hne => absurd rfl hne⟩

/-- A check that stops ends the cycle. -/
theorem dlcpCycle_of_fault {s : State} {f : Fault} (h : dlcpReady s.params s.dlcp = .fault f) (rst rxValid : Bool)
    (rxByte : Byte) : dlcpCycle rst rxValid rxByte s = .fault f := by
  rw [dlcpCycle, h]
  rfl

theorem dlcpCycle_of_refused {s : State} {r : Refusal} (h : dlcpReady s.params s.dlcp = .refused r) (rst rxValid : Bool)
    (rxByte : Byte) : dlcpCycle rst rxValid rxByte s = .refused r := by
  rw [dlcpCycle, h]
  rfl

section
variable {p : Params} {d : Dlcp}

theorem dlcpReady_of_cap_lt (hn : p.n < 2) : dlcpReady p d = .refused .capacityBelowTwo := if_pos hn

theorem dlcpReady_of_clk_lt (hn : 2 ≤ p.n) (hk : p.k < 1) : dlcpReady p d = .refused .clkPerMsZero := by
  rw [dlcpReady, if_neg (Nat.not_lt.2 hn), if_pos hk]

variable (hn : 2 ≤ p.n) (hk : 1 ≤ p.k)
include hn hk

/-- With permitted parameters the queue is checked first. -/
theorem dlcpReady_of_params :
    dlcpReady p d = andThen (rbfReady p.n d.queue) fun _ =>
      if d.st = .act ∧ 1280 < d.msLeft.toNat then .fault .msLeftOutOfRange
      else if d.sub < p.k then .next ()
      else .fault .subOutOfRange := by
  rw [dlcpReady, if_neg (Nat.not_lt.2 hn), if_neg (Nat.not_lt.2 hk)]

theorem dlcpReady_of_index (h : slots p.n ≤ d.queue.rd ∨ slots p.n ≤ d.queue.wr) :
    dlcpReady p d = .fault .rbfIndexOutOfRange := by
  rw [dlcpReady_of_params hn hk, rbfReady_of_index hn h]
  rfl

variable (hrd : d.queue.rd < slots p.n) (hwr : d.queue.wr < slots p.n)
include hrd hwr

theorem dlcpReady_of_msLeft (hst : d.st = .act) (hms : 1280 < d.msLeft.toNat) :
    dlcpReady p d = .fault .msLeftOutOfRange := by
  rw [dlcpReady_of_params hn hk, rbfReady_eq_next.2 ⟨hn, hrd, hwr⟩, andThen_next, if_pos ⟨hst, hms⟩]

theorem dlcpReady_of_sub (hms : d.st = .act → d.msLeft.toNat ≤ 1280) (hsub : p.k ≤ d.sub) :
    dlcpReady p d = .fault .subOutOfRange := by
  have hin : ¬(d.st = .act ∧ 1280 < d.msLeft.toNat) := fun ⟨hst, hlt⟩ => Nat.not_lt.2 (hms hst) hlt
  rw [dlcpReady_of_params hn hk, rbfReady_eq_next.2 ⟨hn, hrd, hwr⟩, andThen_next, if_neg hin,
    if_neg (Nat.not_lt.2 hsub)]

end

/-- A START of a slot without a byte. -/
theorem dlcpCycle_of_bottom {s : State} (hrange : DlcpInRange s) (hst : s.dlcp.st = .idle)
    (hne : s.dlcp.queue.rd ≠ s.dlcp.queue.wr) (hnone : memRead s.dlcp.queue.mem s.dlcp.queue.rd = none)
    (rxValid : Bool) (rxByte : Byte) : dlcpCycle false rxValid rxByte s = .fault .slotBottom := by
  have hstart : consumerAction s.dlcp = .start := consumerAction_eq_start.2 ⟨hst, rbfEmpty_eq_false.2 hne⟩
  have hconsume : consume s.params s.dlcp = .fault .slotBottom := by
    rw [consume, hstart, memFetch_of_none hnone]
    rfl
  rw [dlcpCycle, dlcpReady_eq_next.2 hrange, andThen_next, dlcpEdge, if_neg Bool.false_ne_true, hconsume]
  rfl

/-- Settles O56: each block's check, in its order, and the two reads of a slot without a byte. -/
theorem statesOutOfRangeStopByName : Obligations.StatesOutOfRangeStopByName := by
  refine ⟨fun s i hi hlimit hvalue => ?idx, fun s v i hi => ?rbf, fun s v hrun hne hnone => ?bottom,
    fun s i hi => ?dlcp⟩
  case idx => obtain rfl | rfl | rfl := hi <;> exact idxCycle_of_limit_le hlimit hvalue _ _
  case rbf =>
    obtain ⟨rst, push, pop, data, hexec⟩ := exec_eq_rbfCycle hi
    rw [hexec]
    refine ⟨fun hcap => ?_, fun hcap hindex => ?_⟩
    · rw [rbfCycle, rbfReady_of_cap_lt hcap]
      rfl
    · rw [rbfCycle, rbfReady_of_index hcap hindex]
      rfl
  case bottom => exact ⟨rbfCycle_of_bottom hrun hne hnone false 0x00#8, rbfCycle_of_bottom hrun hne hnone true v⟩
  case dlcp =>
    obtain ⟨rst, rxValid, rxByte, hexec, hrst⟩ := exec_eq_dlcpCycle hi
    rw [hexec]
    refine ⟨fun hn => dlcpCycle_of_refused (dlcpReady_of_cap_lt hn) ..,
      fun hn hk => dlcpCycle_of_refused (dlcpReady_of_clk_lt hn hk) .., fun hn hk =>
        ⟨fun hindex => dlcpCycle_of_fault (dlcpReady_of_index hn hk hindex) .., fun hrd hwr =>
          ⟨fun hst hms => dlcpCycle_of_fault (dlcpReady_of_msLeft hn hk hrd hwr hst hms) ..,
            fun hms hsub => dlcpCycle_of_fault (dlcpReady_of_sub hn hk hrd hwr hms hsub) ..,
            fun hst hsub hne hnone hi' => ?start⟩⟩⟩
    obtain rfl := hrst hi'
    have hrange : DlcpInRange s := ⟨hn, hk, hrd, hwr, fun hact => absurd (hst.symm.trans hact) nofun, hsub⟩
    exact dlcpCycle_of_bottom hrange hst hne hnone _ _

end Sys2Proof.Machine

/-!
# The operations of the RBF on the queue of live bytes (41_ring_buffer.md R123, R124; 60_exceptions.md R200)
-/
namespace Sys2Proof.Machine

/-! ### The refinement (R124) -/

/-- A PUSHPOP of an RBF in range whose oldest byte, where there is one, is `b` (R119). -/
theorem exec_rbfPushpop {s : State} (hrun : RbfCanRun s) {b : Byte}
    (hb : rbfEmpty s.rbf = false → memRead s.rbf.mem s.rbf.rd = some b) (v : Byte) :
    exec (.rbfPushpop v) s =
      .next (s.setRbf (rbfEdge s.params.c s.rbf false true true v)
        (rbfOutputs s.params.c s.rbf false true true (if rbfEmpty s.rbf then 0x00#8 else b))) := by
  cases hempty : rbfEmpty s.rbf with
  | true => exact rbfCycle_of_popValid_eq_false hrun (by simp [hempty]) v
  | false => exact rbfCycle_eq_next.2 ⟨hrun, b, popByte_eq_next.2 (.inl ⟨by simp [hempty], hb hempty⟩), rfl⟩

/-- Settles O22: each operation in the cases of its flags, with what its writes do to the live bytes. -/
theorem rbfRefinesTheAbstractQueue : Obligations.RbfRefinesTheAbstractQueue := by
  intro s v hgood
  have hrun := rbfCanRun_of_goodState hgood
  have hinv := rbfInv_of_goodState hgood
  have ⟨hcap, hrd, hwr⟩ := hrun
  have hfullIff := rbfFull_iff_length_liveBytes hinv
  refine ⟨?push, ?pop, ?pushpop, ?nop, ?reset⟩
  case push =>
    cases hfull : rbfFull s.params.c s.rbf with
    | true =>
      refine ⟨_, exec_rbfPush_of_full hrun hfull v, ?_⟩
      rw [if_pos (hfullIff.1 hfull), State.setRbf_rbfOut, rbfOutputs_push, hfull]
      exact ⟨rfl, rfl⟩
    | false =>
      have hroom : ¬(liveBytes s.params.c s.rbf).length = s.params.c := by simp [← hfullIff, hfull]
      refine ⟨_, exec_rbfPush_of_free hrun hfull v, ?_⟩
      rw [if_neg hroom, State.setRbf_rbfOut, rbfOutputs_push, hfull]
      exact ⟨rfl, liveBytes_pushWrites hrd hwr hfull v⟩
  case pop =>
    cases hempty : rbfEmpty s.rbf with
    | true =>
      have hnil := liveBytes_of_rbfEmpty hempty s.params.c
      refine ⟨_, exec_rbfPop_of_empty hrun hempty, ?_⟩
      rw [hnil, State.setRbf_rbfOut, rbfOutputs_pop, hempty]
      exact ⟨rfl, hnil⟩
    | false =>
      obtain ⟨b, hb⟩ := exists_head_of_rbfInv hinv hempty
      refine ⟨_, exec_rbfPop_of_some hrun hempty hb, ?_⟩
      rw [liveBytes_eq_cons_popWrites hrd hwr hempty hb, State.setRbf_rbfOut, rbfOutputs_pop, hempty]
      exact ⟨rfl, rfl, rfl⟩
  case pushpop =>
    have hboth := not_rbfFull_and_rbfEmpty hrd hwr (by omega)
    cases hempty : rbfEmpty s.rbf with
    | true =>
      have hfree : rbfFull s.params.c s.rbf = false := by simpa [hempty] using hboth
      have hpush := liveBytes_pushWrites hrd hwr hfree v
      have hnil := liveBytes_of_rbfEmpty hempty s.params.c
      refine ⟨_, exec_rbfPushpop hrun (b := 0x00#8) (by simp [hempty]) v, ?_⟩
      rw [hnil] at hpush ⊢
      rw [State.setRbf_rbfOut, State.setRbf_rbf, rbfOutputs_pushpop, rbfEdge_pushpop_of_empty hfree hempty, hempty, hfree]
      exact ⟨rfl, rfl, hpush⟩
    | false =>
      obtain ⟨b, hb⟩ := exists_head_of_rbfInv hinv hempty
      have hcons := liveBytes_eq_cons_popWrites hrd hwr hempty hb
      refine ⟨_, exec_rbfPushpop hrun (fun _ => hb) v, ?_⟩
      rw [hcons] at hfullIff ⊢
      rw [State.setRbf_rbfOut, State.setRbf_rbf, rbfOutputs_pushpop, hempty]
      refine ⟨rfl, rfl, ?_⟩
      cases hfull : rbfFull s.params.c s.rbf with
      | true =>
        rw [if_pos (hfullIff.1 hfull), rbfEdge_pushpop_of_full hfull hempty]
        exact ⟨rfl, rfl⟩
      | false =>
        have hroom : ¬(b :: liveBytes s.params.c (popWrites s.params.c s.rbf)).length = s.params.c := by
          simp only [← hfullIff, hfull, Bool.false_eq_true, not_false_eq_true]
        have hkeep := (KeepsQueue.both hinv hfull hempty v hb).order
        rw [hcons] at hkeep
        rw [if_neg hroom, rbfEdge_pushpop_of_neither hfull hempty]
        exact ⟨rfl, (List.cons.inj hkeep).2.symm⟩
  case nop =>
    exact ⟨_, rbfCycle_of_popValid_eq_false hrun (push := false) (pop := false) rfl 0x00#8, rfl, rfl, rfl, rfl⟩
  case reset =>
    exact ⟨_, rbfCycle_of_popValid_eq_false hrun (push := false) (pop := false) rfl 0x00#8,
      liveBytes_of_rbfEmpty (q := rbfResetRegs s.rbf) rfl _⟩

/-! ### The capacity (R123) -/

/-- A push into a free slot of a good state. -/
theorem exists_rbfPush_of_free {s : State} (hgood : GoodState s) (hfree : rbfFull s.params.c s.rbf = false) (v : Byte) :
    ∃ t, exec (.rbfPush v) s = .next t ∧ GoodState t ∧ t.params = s.params ∧ t.rbfOut.pushOk = true ∧
      t.rbf = pushWrites s.params.c s.rbf v := by
  obtain ⟨t, hexec, hgood'⟩ := exists_exec_of_goodState hgood (.rbfPush v)
  have hnext := exec_rbfPush_of_free (rbfCanRun_of_goodState hgood) hfree v
  obtain rfl := Host.Outcome.next.inj (hexec.symm.trans hnext)
  exact ⟨_, hexec, hgood', rfl, (pushOk_request ..).trans (congrArg not hfree), rfl⟩

/-- As many pushes as there is room for are all accepted, in order. -/
theorem exists_pushes_accepted {s : State} {vs : List Byte} (hgood : GoodState s)
    (hroom : vs.length + rbfCount s.params.c s.rbf ≤ s.params.c) :
    ∃ t, driveWords (vs.map fun v => encode (.rbfPush v)) s = .next t ∧ GoodState t ∧ t.params = s.params ∧
      (rbfLog (vs.map fun v => encode (.rbfPush v)) s).accepted = vs ∧
      liveBytes s.params.c t.rbf = liveBytes s.params.c s.rbf ++ vs := by
  induction vs generalizing s with
  | nil => exact ⟨s, rfl, hgood, rfl, rfl, (List.append_nil _).symm⟩
  | cons v vs ih =>
    have ⟨_, hrd, hwr⟩ := rbfCanRun_of_goodState hgood
    rw [List.length_cons] at hroom
    have hfree : rbfFull s.params.c s.rbf = false := by
      rw [Bool.eq_false_iff, ne_eq, rbfFull_iff_rbfCount hrd hwr]
      omega
    obtain ⟨t, hexec, hgood', hparams, hok, hrbf⟩ := exists_rbfPush_of_free hgood hfree v
    have hcount : rbfCount t.params.c t.rbf = rbfCount s.params.c s.rbf + 1 := by
      rw [hparams, hrbf, rbfCount_pushWrites hrd hwr hfree]
    have hroom' : vs.length + rbfCount t.params.c t.rbf ≤ t.params.c := by
      rw [hcount, hparams]
      omega
    obtain ⟨u, hrun, hgood'', hparams', haccepted, hlive⟩ := ih hgood' hroom'
    have hword : exec (decode (encode (.rbfPush v))) s = .next t :=
      (congrArg (exec · s) (decode_encode _)).trans hexec
    have hentry : (rbfEntry (decode (encode (.rbfPush v))) t).accepted = [v] := by
      rw [decode_encode]
      exact if_pos hok
    rw [hparams, hrbf, liveBytes_pushWrites hrd hwr hfree] at hlive
    refine ⟨u, ?run, hgood'', hparams'.trans hparams, ?accepted, by rw [hlive, List.append_assoc]; rfl⟩
    case run => exact (driveWords_cons_of_exec hword _).trans hrun
    case accepted => rw [List.map_cons, rbfLog_cons hword, joinLog, hentry, haccepted]; rfl

/-- Settles O23: the pushes fill the RBF; on a full RBF the next is refused, and the pop after it makes room. -/
theorem rbfTakesExactlyItsFreeSlots : Obligations.RbfTakesExactlyItsFreeSlots := by
  intro s vs x y hgood hlen
  obtain ⟨t, hrun, hgoodT, hparams, haccepted, hlive⟩ := exists_pushes_accepted hgood (vs := vs) hlen.le
  rw [← hparams] at hlive hlen ⊢
  have hrunT := rbfCanRun_of_goodState hgoodT
  have ⟨hcap, hrd, hwr⟩ := hrunT
  have hfull : rbfFull t.params.c t.rbf = true := by
    rw [rbfFull_iff_length_liveBytes (rbfInv_of_goodState hgoodT), hlive, List.length_append, hparams,
      length_liveBytes (rbfInv_of_goodState hgood), ← hparams]
    omega
  have hsome : rbfEmpty t.rbf = false := by
    simpa [hfull] using not_rbfFull_and_rbfEmpty hrd hwr (Nat.one_le_of_lt hcap)
  obtain ⟨b, hb⟩ := exists_head_of_rbfInv (rbfInv_of_goodState hgoodT) hsome
  have hrefused := exec_rbfPush_of_full hrunT hfull x
  have hfree := rbfFull_popWrites hrd hwr hsome
  refine ⟨t, _, _, _, hrun, haccepted, hfull, hsome, hlive, hrefused, ?full, rfl,
    exec_rbfPop_of_some hrunT hsome hb, exec_rbfPush_of_free ?range hfree y, ?accepted⟩
  case full => exact (pushFull_request ..).trans hfull
  case range => exact ⟨hcap, wrapNext_lt (slots_pos _) _, hwr⟩
  case accepted => exact (pushOk_request ..).trans (congrArg not hfree)

/-! ### A cycle is one order of its two actions (20_memory.md R57) -/

/-- COUNT reads and writes nothing of the queue. -/
theorem countCycle_pushWrites (k n : Nat) (d : Dlcp) (v : Byte) :
    countCycle k { d with queue := pushWrites n d.queue v } = produce n d v (countCycle k d) := by
  by_cases hlast : d.sub = k - 1
  · rw [countCycle_of_last hlast, countCycle_of_last (d := { d with queue := pushWrites n d.queue v }) hlast]
    rfl
  · rw [countCycle_of_not_last hlast, countCycle_of_not_last (d := { d with queue := pushWrites n d.queue v }) hlast]
    rfl

/-- The consumer does the same after the producer's push, while there is a byte to take. -/
theorem consume_pushWrites {p : Params} {d c : Dlcp} (hrd : d.queue.rd < slots p.n) (hwr : d.queue.wr < slots p.n)
    (hsome : rbfEmpty d.queue = false) (hfree : rbfFull p.n d.queue = false) (v : Byte)
    (hc : consume p d = .next c) :
    consume p { d with queue := pushWrites p.n d.queue v } = .next (produce p.n d v c) := by
  rw [consume_eq_next]
  obtain ⟨hst, _, b, hb, rfl⟩ | ⟨hst, hms, rfl⟩ | ⟨hst, hms, rfl⟩ | ⟨_, hempty, _⟩ := consume_eq_next.1 hc
  · exact .inl ⟨hst, rbfEmpty_pushWrites hrd hwr hfree v, b, (memRead_pushWrites_rd hsome v).trans hb, rfl⟩
  · exact .inr (.inl ⟨hst, hms, rfl⟩)
  · exact .inr (.inr (.inl ⟨hst, hms, (countCycle_pushWrites ..).symm⟩))
  · exact nomatch hsome.symm.trans hempty

/-- The producer's writes are the same after the consumer's action, which leaves the storage and `wr`. -/
theorem produce_eq_pushWrites {p : Params} {d c : Dlcp} (hc : consume p d = .next c) (v : Byte) :
    produce p.n d v c = { c with queue := pushWrites p.n c.queue v } := by
  obtain ⟨hmem, hwr⟩ := mem_wr_of_consume hc
  rw [produce, pushWrites, hmem, hwr]

/-- The consumer's action leaves a free slot free. -/
theorem rbfFull_of_consume {p : Params} {d c : Dlcp} (hrd : d.queue.rd < slots p.n) (hwr : d.queue.wr < slots p.n)
    (hfree : rbfFull p.n d.queue = false) (hc : consume p d = .next c) : rbfFull p.n c.queue = false := by
  obtain ⟨hsame, _⟩ | ⟨hpop, _, hsome, _⟩ := consume_queue_or_start hc
  · rwa [hsame]
  · rw [hpop]
    exact rbfFull_popWrites hrd hwr hsome

/-- What a SEND that runs leaves of the controller (R150, R170). -/
theorem dlcp_of_dlcpSend {s t : State} {v : Byte} (h : exec (.dlcpSend v) s = .next t) :
    DlcpInRange s ∧ ∃ c, consume s.params s.dlcp = .next c ∧
      t.dlcp = if rbfFull s.params.n s.dlcp.queue then c else produce s.params.n s.dlcp v c := by
  obtain ⟨hready, e, hedge, rfl⟩ := dlcpCycle_eq_next.1 h
  obtain ⟨hreset, _⟩ | ⟨_, c, hc, rfl⟩ := dlcpEdge_eq_next.1 hedge
  · exact nomatch hreset
  · refine ⟨dlcpReady_eq_next.1 hready, c, hc, ?_⟩
    rw [State.setDlcp_dlcp, pushOk_request]
    cases rbfFull s.params.n s.dlcp.queue <;> rfl

/-- What a PUSHPOP that runs leaves of the RBF (R119). -/
theorem rbf_of_rbfPushpop {s t : State} {v : Byte} (h : exec (.rbfPushpop v) s = .next t) :
    RbfCanRun s ∧ t.rbf = rbfEdge s.params.c s.rbf false true true v ∧
      (rbfEmpty s.rbf = false → memRead s.rbf.mem s.rbf.rd = some t.rbfOut.popData) := by
  obtain ⟨hrun, head, hpop, rfl⟩ := rbfCycle_eq_next.1 h
  refine ⟨hrun, rfl, fun hsome => ?_⟩
  obtain ⟨_, hb⟩ | ⟨hinvalid, _⟩ := popByte_eq_next.1 hpop
  · rw [State.setRbf_rbfOut, rbfOutputs_pushpop, hsome]
    exact hb
  · simp [hsome] at hinvalid

/-- Settles O26: with an element to pop the producer may go first, with a free slot the consumer may. -/
theorem aCycleIsOneOrderOfItsActions : Obligations.ACycleIsOneOrderOfItsActions := by
  refine ⟨fun s t v hexec => ?rbf, fun s t v hexec => ?dlcp⟩
  case rbf =>
    obtain ⟨⟨_, hrd, hwr⟩, hrbf, hhead⟩ := rbf_of_rbfPushpop hexec
    rw [hrbf]
    refine ⟨fun hsome => ?pushFirst, fun hfree => ?popFirst⟩
    case pushFirst =>
      cases hfull : rbfFull s.params.c s.rbf with
      | true =>
        rw [atomicPush_of_full hfull, atomicPop_of_some hsome (hhead hsome), rbfEdge_pushpop_of_full hfull hsome]
      | false =>
        rw [atomicPush_of_free hfull, atomicPop_of_some (rbfEmpty_pushWrites hrd hwr hfull v)
          ((memRead_pushWrites_rd hsome v).trans (hhead hsome)), rbfEdge_pushpop_of_neither hfull hsome]
    case popFirst =>
      cases hempty : rbfEmpty s.rbf with
      | true =>
        exact ⟨_, _, atomicPop_of_empty hempty, by
          rw [atomicPush_of_free hfree, rbfEdge_pushpop_of_empty hfree hempty]⟩
      | false =>
        refine ⟨_, _, atomicPop_of_some hempty (hhead hempty), ?_⟩
        rw [atomicPush_of_free (rbfFull_popWrites hrd hwr hempty), rbfEdge_pushpop_of_neither hfree hempty]
        rfl
  case dlcp =>
    obtain ⟨⟨_, _, hrd, hwr, _⟩, c, hc, hdlcp⟩ := dlcp_of_dlcpSend hexec
    rw [hdlcp]
    refine ⟨fun hsome => ?pushFirst, fun hfree => ?consumeFirst⟩
    case pushFirst =>
      cases hfull : rbfFull s.params.n s.dlcp.queue with
      | true =>
        rw [atomicPush_of_full hfull]
        exact hc
      | false =>
        rw [atomicPush_of_free hfull]
        exact consume_pushWrites hrd hwr hsome hfull v hc
    case consumeFirst =>
      refine ⟨c, hc, ?_⟩
      rw [hfree, atomicPush_of_free (rbfFull_of_consume hrd hwr hfree hc)]
      exact (produce_eq_pushWrites hc v).symm

end Sys2Proof.Machine

/-!
# The controller's outputs, outcomes and commands (43_dispatch.md R150 to R167; 60_exceptions.md R200)

The ports of every cycle are `dlcpOutputs` of the pre-state (`dlcpOut_of_exec`). What one cycle hands to the next is its
`GoodCycle`, so a statement about a few cycles is that many of them, each with the consumer's action named.
-/
namespace Sys2Proof.Machine

/-! ### The ports (R170) -/

/-- The ports of a cycle of the controller are those of its pre-state. -/
theorem dlcpOut_of_dlcpCycle {rst rxValid : Bool} {rxByte : Byte} {s t : State}
    (h : dlcpCycle rst rxValid rxByte s = .next t) : t.dlcpOut = dlcpOutputs s.params.n s.dlcp rst rxValid := by
  obtain ⟨_, d, _, rfl⟩ := dlcpCycle_eq_next.1 h
  rfl

theorem dlcpOut_of_exec {i : Instr} {s t : State} (hi : DlcpActive i ∨ i = .dlcpReset) (h : exec i s = .next t) :
    ∃ rst rxValid, t.dlcpOut = dlcpOutputs s.params.n s.dlcp rst rxValid := by
  obtain ⟨rst, rxValid, rxByte, hexec, _⟩ := exec_eq_dlcpCycle hi
  exact ⟨rst, rxValid, dlcpOut_of_dlcpCycle ((hexec s).symm.trans h)⟩

theorem upLevel_eq_true {d : Dlcp} : upLevel d = true ↔ d.st = .act ∧ d.curDir = .up := by simp [upLevel]

theorem downLevel_eq_true {d : Dlcp} : downLevel d = true ↔ d.st = .act ∧ d.curDir = .down := by simp [downLevel]

theorem statusLevel_eq_false {d : Dlcp} : statusLevel d = false ↔ d.st = .act := by simp [statusLevel]

/-- In ACT exactly one output is high, since a direction is Up or Down (R157). -/
theorem up_or_down_iff {d : Dlcp} : upLevel d = true ∨ downLevel d = true ↔ d.st = .act := by
  rw [upLevel_eq_true, downLevel_eq_true, ← and_or_left, and_iff_left]
  cases d.curDir
  · exact .inl rfl
  · exact .inr rfl

/-- Settles O38: `dlcpOutputs` of the pre-state, field by field. -/
theorem controllerOutputsShowThePreState : Obligations.ControllerOutputsShowThePreState := by
  intro i s t hi hexec
  obtain ⟨rst, rxValid, hout⟩ := dlcpOut_of_exec hi hexec
  rw [hout]
  refine ⟨upLevel_eq_true, downLevel_eq_true, statusLevel_eq_false, rbfEmpty_eq_true, rbfFull_eq_true, rfl, rfl,
    fun ⟨hup, hdown⟩ => ?exclusive, statusLevel_eq_false.trans up_or_down_iff.symm⟩
  case exclusive =>
    obtain ⟨_, hdirUp⟩ := upLevel_eq_true.1 hup
    obtain ⟨_, hdirDown⟩ := downLevel_eq_true.1 hdown
    exact nomatch hdirUp.symm.trans hdirDown

/-! ### The outcome of a request (60_exceptions.md R200) -/

theorem dlcpOut_of_dlcpSend {s t : State} {v : Byte} (h : exec (.dlcpSend v) s = .next t) :
    t.dlcpOut.rxOk = (!rbfFull s.params.n s.dlcp.queue) ∧ t.dlcpOut.rxFull = rbfFull s.params.n s.dlcp.queue := by
  rw [dlcpOut_of_dlcpCycle h]
  exact ⟨pushOk_request .., pushFull_request ..⟩

/-- The ports of a push: one outcome of the two. -/
theorem rbfOut_of_push {pop : Bool} {v : Byte} {s t : State} (h : rbfCycle false true pop v s = .next t) :
    t.rbfOut.pushOk = (!rbfFull s.params.c s.rbf) ∧ t.rbfOut.pushFull = rbfFull s.params.c s.rbf := by
  obtain ⟨_, head, _, rfl⟩ := rbfCycle_eq_next.1 h
  exact ⟨pushOk_request .., pushFull_request ..⟩

/-- The port of a pop: an element, exactly when there was one. -/
theorem rbfOut_of_pop {push : Bool} {v : Byte} {s t : State} (h : rbfCycle false push true v s = .next t) :
    t.rbfOut.popValid = !rbfEmpty s.rbf := by
  obtain ⟨_, head, _, rfl⟩ := rbfCycle_eq_next.1 h
  exact popValid_request ..

/-- Settles O39: of the two ports of a push one is high, as `full` says, and a pop without an element is BufferEmpty. -/
theorem everyRequestGetsItsOutcomeCode : Obligations.EveryRequestGetsItsOutcomeCode := by
  refine ⟨fun s t v h => ?send, fun s t v h => ?push, fun s t v h => ?pop, rfl⟩
  case send =>
    obtain ⟨hok, hfull⟩ := dlcpOut_of_dlcpSend h
    rw [sendOutcome, hok, hfull]
    cases rbfFull s.params.n s.dlcp.queue <;> rfl
  case push =>
    obtain ⟨hok, hfull⟩ := h.elim rbfOut_of_push rbfOut_of_push
    rw [pushOutcome, hok, hfull]
    cases rbfFull s.params.c s.rbf <;> rfl
  case pop =>
    have hvalid := h.elim rbfOut_of_pop rbfOut_of_pop
    rw [popOutcome, hvalid]
    cases rbfEmpty s.rbf <;> simp

/-! ### SEND and WAIT (R150, R156) -/

theorem exec_dlcpNop {s : State} {c : Dlcp} (hrange : DlcpInRange s) (hc : consume s.params s.dlcp = .next c) :
    exec .dlcpNop s = .next (s.setDlcp c (dlcpOutputs s.params.n s.dlcp false false)) :=
  dlcpCycle_eq_next.2 ⟨dlcpReady_eq_next.2 hrange, c, dlcpEdge_eq_next.2 (.inr ⟨rfl, c, hc, rfl⟩), rfl⟩

/-- Settles O32: both operations leave what the consumer makes of the controller, and an accepted SEND puts the
producer's writes on top of it. -/
theorem sendQueuesTheByteOrReportsFull : Obligations.SendQueuesTheByteOrReportsFull := by
  intro s v hrun
  have ⟨hrange, _⟩ := hrun
  obtain ⟨c, hc⟩ := exists_consume hrun
  obtain ⟨hmem, hwr⟩ := mem_wr_of_consume hc
  cases hfull : rbfFull s.params.n s.dlcp.queue with
  | true =>
    have hnext := rbfFull_eq_true.1 hfull
    have hsend := exec_dlcpSend_of_full hrange hc hfull v
    obtain ⟨hok, hrefused⟩ := dlcpOut_of_dlcpSend hsend
    rw [hfull] at hok hrefused
    exact ⟨_, _, hsend, exec_dlcpNop hrange hc, rfl, rfl,
      fun _ => ⟨hok, hrefused, hmem, hwr, fun a => congrArg (memRead · a) hmem⟩, fun hne => absurd hnext hne⟩
  | false =>
    have hnext : (s.dlcp.queue.wr + 1) % slots s.params.n ≠ s.dlcp.queue.rd := rbfFull_eq_false.1 hfull
    have hsend := exec_dlcpSend_of_free hrange hc hfull v
    obtain ⟨hok, hrefused⟩ := dlcpOut_of_dlcpSend hsend
    rw [hfull] at hok hrefused
    exact ⟨_, _, hsend, exec_dlcpNop hrange hc, rfl, rfl, fun heq => absurd heq hnext,
      fun _ => ⟨hok, hrefused, rfl, memRead_memWrite_self .., fun _ => memRead_memWrite_of_ne _ v⟩⟩

theorem consume_of_wait {p : Params} {d : Dlcp} (hst : d.st = .idle) (hempty : rbfEmpty d.queue = true) :
    consume p d = .next d :=
  consume_eq_next.2 (.inr (.inr (.inr ⟨hst, hempty, rfl⟩)))

theorem consumerOutcome_of_wait {d : Dlcp} (hst : d.st = .idle) (hempty : rbfEmpty d.queue = true) :
    consumerOutcome d = some .bufferEmpty := by
  have hwait : consumerAction d = .wait := by simp [consumerAction, hst, hempty]
  rw [consumerOutcome, hwait]

/-- Settles O37: the consumer leaves the controller as it is, so `ActiveCycle` gives its registers back. -/
theorem waitChangesNoConsumerRegister : Obligations.WaitChangesNoConsumerRegister := by
  intro i s hi hrange hst hsame
  have hempty := rbfEmpty_eq_true.2 hsame
  obtain ⟨t, hexec, ht⟩ := exists_activeCycle hi hrange (consume_of_wait hst hempty)
  exact ⟨consumerOutcome_of_wait hst hempty, t, hexec, ht.frame, ht.producer, ht.rd, ht.registers⟩

/-- Settles O40: `rx_full` is the pre-state's `full`, which is N live bytes, and the queue stays well-formed. -/
theorem queueFullMeansNCommandsPending : Obligations.QueueFullMeansNCommandsPending := by
  intro s v hgood
  obtain ⟨_, t, _, hexec, hcycle⟩ := exists_goodCycle (.inr ⟨v, rfl⟩) hgood
  obtain ⟨_, hrefused⟩ := dlcpOut_of_dlcpSend hexec
  obtain ⟨_, ⟨hinv, _⟩, _⟩ := hgood
  exact ⟨t, hexec, hrefused ▸ rbfFull_iff_length_liveBytes hinv, length_liveBytes_le hcycle.keeps.inv⟩

/-! ### A few cycles in a row (R160, R167, R231) -/

/-- A cycle without reset of a good state in which a START finds the byte `b` at the head. -/
theorem exists_goodCycle_start {i : Instr} {s : State} {b : Byte} (hi : DlcpActive i) (hgood : GoodState s)
    (hst : s.dlcp.st = .idle) (hne : s.dlcp.queue.rd ≠ s.dlcp.queue.wr)
    (hb : memRead s.dlcp.queue.mem s.dlcp.queue.rd = some b) :
    ∃ t, exec i s = .next t ∧ GoodCycle i s (startWith s.params.n s.dlcp b) t := by
  obtain ⟨c, t, hc, hexec, hcycle⟩ := exists_goodCycle hi hgood
  obtain rfl := Host.Outcome.next.inj (hc.symm.trans (consume_of_start hst hne hb))
  exact ⟨t, hexec, hcycle⟩

/-- The output of the command in flight is high (10_state.md R31). -/
theorem output_of_command {b : Byte} {d : Dlcp} (hst : d.st = .act) (hdir : d.curDir = directionOf b) :
    if b.getLsbD 7 then downLevel d = true else upLevel d = true := by
  unfold directionOf at hdir
  split at hdir
  next hneg =>
    rw [if_pos hneg]
    exact downLevel_eq_true.2 ⟨hst, hdir⟩
  next hpos =>
    rw [if_neg hpos]
    exact upLevel_eq_true.2 ⟨hst, hdir⟩

/-- Settles O42: the SEND's cycle is a WAIT that leaves the byte at the head, the next is its START, and the one after
shows its direction. -/
theorem byteSentToAnIdleControllerStartsNextCycle : Obligations.ByteSentToAnIdleControllerStartsNextCycle := by
  intro s v i j hgood hdrained hi hj
  obtain ⟨hidle, hempty⟩ := hdrained
  have hrange := dlcpInRange_of_goodState hgood
  have ⟨hn, _, hrd, hwr, _⟩ := hrange
  have hfree : rbfFull s.params.n s.dlcp.queue = false := by
    simpa [hempty] using not_rbfFull_and_rbfEmpty hrd hwr (Nat.one_le_of_lt hn)
  have hsend := exec_dlcpSend_of_free hrange (consume_of_wait hidle hempty) hfree v
  obtain ⟨t, hexec, hgoodT⟩ := exists_exec_of_goodState hgood (.dlcpSend v)
  obtain rfl := Host.Outcome.next.inj (hexec.symm.trans hsend)
  have hhead : memRead (memWrite s.dlcp.queue.mem s.dlcp.queue.wr v) s.dlcp.queue.rd = some v := by
    rw [rbfEmpty_eq_true.1 hempty, memRead_memWrite_self]
  have hne : s.dlcp.queue.rd ≠ wrapNext (slots s.params.n) s.dlcp.queue.wr :=
    rbfEmpty_eq_false.1 (rbfEmpty_pushWrites hrd hwr hfree v)
  obtain ⟨u, hstart, hcycle⟩ := exists_goodCycle_start hi hgoodT hidle hne hhead
  obtain ⟨hact, hraw, hdir, _⟩ := hcycle.registers
  obtain ⟨_, x, _, hnext, _⟩ := exists_goodCycle hj hcycle.good
  obtain ⟨_, _, hstatus⟩ := levels_of_exec (.inl hi) hstart
  obtain ⟨hup, hdown, _⟩ := levels_of_exec (.inl hj) hnext
  obtain ⟨_, _, hrest⟩ := levels_of_idle hidle
  refine ⟨_, u, x, hsend, (dlcpOut_of_dlcpSend hsend).1.trans (congrArg not hfree), hidle, hstart,
    hstatus.trans hrest, hact, hraw, hnext, ?_⟩
  rw [hup, hdown]
  exact output_of_command hact hdir

/-- While the consumer leaves the queue, a byte that is at its head stays there. -/
theorem ActiveCycle.head {s t : State} {c : Dlcp} (h : ActiveCycle s c t) (hrange : DlcpInRange s)
    (hqueue : c.queue = s.dlcp.queue) (hsome : rbfEmpty s.dlcp.queue = false) :
    rbfEmpty t.dlcp.queue = false ∧
      memRead t.dlcp.queue.mem t.dlcp.queue.rd = memRead s.dlcp.queue.mem s.dlcp.queue.rd := by
  obtain ⟨_, _, hrd, hwr, _⟩ := hrange
  obtain ⟨_, hkept⟩ | ⟨_, hfree, v, hpush⟩ := h.queue
  · rw [hkept, hqueue]
    exact ⟨hsome, rfl⟩
  · have hpush' : t.dlcp.queue = pushWrites s.params.n s.dlcp.queue v := by rw [hpush, hqueue]; rfl
    rw [hpush']
    exact ⟨rbfEmpty_pushWrites hrd hwr hfree v, memRead_pushWrites_rd hsome v⟩

/-- Settles O43: the FINISH leaves the queue's head for the START of the next cycle, which shows the outputs of IDLE. -/
theorem exactlyOneIdleCycleBetweenActuations : Obligations.ExactlyOneIdleCycleBetweenActuations := by
  intro s i j hgood hi hj hst hms hne
  obtain ⟨c, t, hc, hexec, hfinish⟩ := exists_goodCycle hi hgood
  obtain rfl := Host.Outcome.next.inj (hc.symm.trans (consume_of_act hst))
  rw [actuate_of_elapsed hms] at hfinish
  obtain ⟨hidle, _⟩ := hfinish.registers
  obtain ⟨hsome, hhead⟩ := hfinish.head (dlcpInRange_of_goodState hgood) rfl (rbfEmpty_eq_false.2 hne)
  have ⟨_, ⟨hinv, _⟩, _⟩ := hfinish.good
  obtain ⟨b, hb⟩ := exists_head_of_rbfInv hinv hsome
  have hne' : t.dlcp.queue.rd ≠ t.dlcp.queue.wr := rbfEmpty_eq_false.1 hsome
  obtain ⟨u, hstart, hcycle⟩ := exists_goodCycle_start hj hfinish.good hidle hne' hb
  obtain ⟨hact, hraw, _⟩ := hcycle.registers
  obtain ⟨_, _, hstatus⟩ := levels_of_exec (.inl hi) hexec
  obtain ⟨hup, hdown, hstatus'⟩ := levels_of_exec (.inl hj) hstart
  obtain ⟨hupIdle, hdownIdle, hstatusIdle⟩ := levels_of_idle hidle
  have htaken : memRead s.dlcp.queue.mem s.dlcp.queue.rd = some u.dlcp.curRaw := by
    rw [← hhead, hb, hraw]
    rfl
  exact ⟨t, u, hexec, hidle, hstatus.trans (statusLevel_eq_false.2 hst), hstart, hup.trans hupIdle,
    hdown.trans hdownIdle, hstatus'.trans hstatusIdle, hact, htaken⟩

/-- Settles O50: the reset cycle shows the actuation, and the next one is a WAIT of the registers at their reset values. -/
theorem resetAbortsTheActuationAndDiscardsTheQueue : Obligations.ResetAbortsTheActuationAndDiscardsTheQueue := by
  intro s i hrange hst hi
  have hreset := exec_dlcpReset hrange
  have ⟨hn, hk, _⟩ := hrange
  have hrange' : ∀ out, DlcpInRange (s.setDlcp (dlcpResetRegs s.dlcp) out) := fun out =>
    ⟨hn, hk, slots_pos _, slots_pos _, nofun, hk⟩
  have hempty : rbfEmpty (rbfResetRegs s.dlcp.queue) = true := rfl
  obtain ⟨u, hexec, hcycle⟩ := exists_activeCycle hi (hrange' _) (consume_of_wait rfl hempty)
  obtain ⟨hidle, _⟩ := hcycle.registers
  obtain ⟨rst, rxValid, hout⟩ := dlcpOut_of_exec (.inl hi) hexec
  rw [State.setDlcp_dlcp] at hout
  obtain ⟨hup, hdown, hstatus⟩ := levels_of_idle (dlcpResetRegs_st s.dlcp)
  refine ⟨_, u, hreset, up_or_down_iff.2 hst, rfl, liveBytes_of_rbfEmpty hempty _, hexec, ?_⟩
  rw [hout]
  exact ⟨hup, hdown, hstatus, hempty, hidle⟩

end Sys2Proof.Machine

/-!
# Commands, durations and the IDX over several cycles (30_encoding.md R84, 40_wrap_index.md, 42_codec.md)

On either side of 128 the duration is one linear function of `u8` (`durationMs_of_up`, `durationMs_of_down`), so which
durations occur and which byte has one is linear arithmetic (R136).
-/
namespace Sys2Proof.Machine

/-! ### Directions and durations (R136) -/

theorem directionOf_eq_up {b : Byte} : directionOf b = .up ↔ u8 b < 128 := by
  rw [← Nat.not_le, ← directionOf_eq_down]
  cases directionOf b <;> simp

theorem durationMs_of_up {b : Byte} (h : u8 b < 128) : durationMs b = 10 * u8 b := by
  rw [durationMs, magnitude_eq_ite, if_neg (Nat.not_le.2 h)]

theorem durationMs_of_down {b : Byte} (h : 128 ≤ u8 b) : durationMs b = 10 * (256 - u8 b) := by
  rw [durationMs, magnitude_eq_ite, if_pos h]

theorem u8_ofNat {n : Nat} (h : n < 256) : u8 (BitVec.ofNat 8 n) = n := Nat.mod_eq_of_lt h

/-- The byte R84 sends for `UP t`. -/
theorem upByte_direction_duration {t : Nat} (h : t % 10 = 0 ∧ t ≤ 1270) :
    directionOf (BitVec.ofNat 8 (t / 10)) = .up ∧ durationMs (BitVec.ofNat 8 (t / 10)) = t := by
  have hvalue : u8 (BitVec.ofNat 8 (t / 10)) = t / 10 := u8_ofNat (by omega)
  have hup : u8 (BitVec.ofNat 8 (t / 10)) < 128 := by omega
  exact ⟨directionOf_eq_up.2 hup, by rw [durationMs_of_up hup]; omega⟩

/-- The byte R84 sends for `DOWN t`. -/
theorem downByte_direction_duration {t : Nat} (h : t % 10 = 0 ∧ 10 ≤ t ∧ t ≤ 1280) :
    directionOf (BitVec.ofNat 8 (256 - t / 10)) = .down ∧ durationMs (BitVec.ofNat 8 (256 - t / 10)) = t := by
  have hvalue : u8 (BitVec.ofNat 8 (256 - t / 10)) = 256 - t / 10 := u8_ofNat (by omega)
  have hdown : 128 ≤ u8 (BitVec.ofNat 8 (256 - t / 10)) := by omega
  exact ⟨directionOf_eq_down.2 hdown, by rw [durationMs_of_down hdown]; omega⟩

theorem exists_up_iff (n : Nat) : (∃ b, directionOf b = .up ∧ durationMs b = n) ↔ n % 10 = 0 ∧ n ≤ 1270 := by
  refine ⟨fun ⟨b, hdir, hms⟩ => ?_, fun h => ⟨_, upByte_direction_duration h⟩⟩
  have hup := directionOf_eq_up.1 hdir
  rw [durationMs_of_up hup] at hms
  omega

theorem exists_down_iff (n : Nat) :
    (∃ b, directionOf b = .down ∧ durationMs b = n) ↔ n % 10 = 0 ∧ 10 ≤ n ∧ n ≤ 1280 := by
  refine ⟨fun ⟨b, hdir, hms⟩ => ?_, fun h => ⟨_, downByte_direction_duration h⟩⟩
  have hdown := directionOf_eq_down.1 hdir
  have hlt := u8_lt b
  rw [durationMs_of_down hdown] at hms
  omega

theorem eq_of_direction_of_duration {b c : Byte} (hdir : directionOf b = directionOf c)
    (hms : durationMs b = durationMs c) : b = c := by
  suffices hvalue : u8 b = u8 c from BitVec.eq_of_toNat_eq hvalue
  cases hb : directionOf b with
  | up =>
    rw [durationMs_of_up (directionOf_eq_up.1 hb), durationMs_of_up (directionOf_eq_up.1 (hdir ▸ hb))] at hms
    omega
  | down =>
    have hltb := u8_lt b
    have hltc := u8_lt c
    rw [durationMs_of_down (directionOf_eq_down.1 hb), durationMs_of_down (directionOf_eq_down.1 (hdir ▸ hb))] at hms
    omega

/-- Settles O30: the two linear functions are injective, and these are their ranges. -/
theorem directionAndDurationDetermineTheCommand : Obligations.DirectionAndDurationDetermineTheCommand :=
  ⟨fun _ _ => eq_of_direction_of_duration, exists_up_iff, exists_down_iff⟩

/-! ### The pseudo-instructions (R84) -/

theorem asmLine_wf_up {t : Nat} : (AsmLine.up t).wf = true ↔ t % 10 = 0 ∧ t ≤ 1270 := by simp [AsmLine.wf]

theorem asmLine_wf_down {t : Nat} : (AsmLine.down t).wf = true ↔ t % 10 = 0 ∧ 10 ≤ t ∧ t ≤ 1280 := by
  simp [AsmLine.wf, and_assoc]

/-- Settles O6: the byte that is sent has the duration, and a refused `t` is in neither range of R136. -/
theorem pseudoInstructionsSendTheirDuration : Obligations.PseudoInstructionsSendTheirDuration := by
  intro t
  refine ⟨fun h => ?up, fun h => ?upRefused, fun h => ?down, fun h => ?downRefused⟩
  case up => exact ⟨_, _, if_pos (asmLine_wf_up.2 h), decode_encode _, upByte_direction_duration h⟩
  case upRefused =>
    exact ⟨if_neg (mt asmLine_wf_up.1 h), fun b hdir hms => h ((exists_up_iff t).1 ⟨b, hdir, hms⟩)⟩
  case down => exact ⟨_, _, if_pos (asmLine_wf_down.2 h), decode_encode _, downByte_direction_duration h⟩
  case downRefused =>
    exact ⟨if_neg (mt asmLine_wf_down.1 h), fun b hdir hms => h ((exists_down_iff t).1 ⟨b, hdir, hms⟩)⟩

/-! ### CMD.UP (R133) -/

theorem codecPorts_of_up {b : Byte} (h : u8 b < 128) :
    codecPorts b = { b := b, dir := .up, ms := BitVec.ofNat 16 (10 * u8 b) } := by
  rw [codecPorts, directionOf_eq_up.2 h, codecMs, durationMs_of_up h]

/-- Settles O27: the byte `{0, m}` is `m`, which is below 128, so its ports are those of R133. -/
theorem cmdUpGivesItsDuration : Obligations.CmdUpGivesItsDuration := by
  refine ⟨fun m s => ?_, fun b hb => decode_cmd_of_up hb⟩
  have hvalue : u8 (0b0#1 ++ m) = m.toNat := (u8_append 0b0#1 m).trans (by simp)
  have hup : u8 (0b0#1 ++ m) < 128 := hvalue ▸ m.isLt
  refine ⟨?next, hvalue, ?raw⟩
  case next => rw [exec_cmdUp, codecPorts_of_up hup, hvalue, State.setCodec]
  case raw => rw [commandRaw_eq_ite, if_neg (Nat.not_le.2 hup), hvalue]

/-! ### The display text (R137) -/

/-- The text before the number. -/
def directionText : Direction → String
  | .up => "up/"
  | .down => "down/"

theorem display_eq (b : Byte) : display b = directionText (directionOf b) ++ Nat.repr (durationMs b) ++ "ms" := by
  unfold display directionText
  rfl

/-- The first letter of the text is the direction's. -/
theorem direction_of_text {d e : Direction} {x y : String} (h : directionText d ++ x = directionText e ++ y) :
    d = e := by
  have hfirst := congrArg (fun t => t.toList.head?) h
  simp only [String.toList_append] at hfirst
  cases d <;> cases e <;> simp [directionText] at hfirst ⊢

/-- Settles O31: equal texts begin alike, so the directions are equal and, behind them, equal durations. -/
theorem displayNamesTheCommand : Obligations.DisplayNamesTheCommand := by
  refine ⟨fun b => ?text, fun b c h => ?same⟩
  case text =>
    rw [display_eq, ← u8]
    by_cases hdown : 128 ≤ u8 b
    · rw [if_pos hdown, if_pos hdown, directionOf_eq_down.2 hdown, durationMs_of_down hdown]
      rfl
    · have hup := Nat.not_le.1 hdown
      rw [if_neg hdown, if_neg hdown, directionOf_eq_up.2 hup, durationMs_of_up hup]
      rfl
  case same =>
    rw [display_eq, display_eq, String.append_left_inj] at h
    have hdir := direction_of_text h
    rw [hdir, String.append_right_inj, Nat.repr_inj] at h
    exact eq_of_direction_of_duration hdir h

/-! ### The IDX over several cycles (40_wrap_index.md R100, R103, R107) -/

theorem exec_idxAdv_word {s : State} (h : IdxCanRun s) :
    exec (decode (.idx 0b01#2)) s = .next (s.setIdx (wrapNext s.params.limit s.idx) (idxOutputs s.params.limit s.idx)) :=
  idxCycle_of_idxCanRun h false true

/-- Settles O10: each ADV adds one modulo the limit, and a remainder may be taken late. -/
theorem idxAdvancesAddUpModuloTheLimit : Obligations.IdxAdvancesAddUpModuloTheLimit := by
  intro s k hrun
  induction k generalizing s with
  | zero =>
    have ⟨_, hlt⟩ := hrun
    exact ⟨s, rfl, (Nat.mod_eq_of_lt hlt).symm, rfl⟩
  | succ k ih =>
    have ⟨hlimit, _⟩ := hrun
    have hrun' : IdxCanRun (s.setIdx (wrapNext s.params.limit s.idx) (idxOutputs s.params.limit s.idx)) :=
      ⟨hlimit, wrapNext_lt hlimit _⟩
    obtain ⟨u, hdrive, hvalue, hframe⟩ := ih _ hrun'
    rw [State.setIdx_idx, State.setIdx_params, wrapNext, Nat.mod_add_mod, Nat.add_assoc, Nat.add_comm 1 k] at hvalue
    refine ⟨u, ?run, hvalue, hframe⟩
    case run => rw [List.replicate_succ, driveWords_cons, exec_idxAdv_word hrun, andThen_next, hdrive]

/-- Settles O11: all three operations show the ports of the pre-state, and `nxt` is the value ADV writes. -/
theorem idxQueriesShowTheValueAndItsSuccessor : Obligations.IdxQueriesShowTheValueAndItsSuccessor := by
  intro s i hrun hi
  have ⟨hlimit, hlt⟩ := hrun
  obtain ⟨rst, adv, hexec⟩ : ∃ rst adv, ∀ s, exec i s = idxCycle rst adv s := by
    obtain rfl | rfl | rfl := hi <;> exact ⟨_, _, fun _ => rfl⟩
  refine ⟨_, _, _, (hexec s).trans (idxCycle_of_idxCanRun hrun rst adv), idxCycle_of_idxCanRun hrun false true,
    idxCycle_of_idxCanRun hrun false false, rfl, hlt, rfl, rfl, rfl, fun hlast => ?last, fun hone => ?one⟩
  case last =>
    have hwrap : s.idx + 1 = s.params.limit := by omega
    exact hwrap ▸ Nat.mod_self _
  case one =>
    have hzero : s.idx = 0 := by omega
    have hnxt : (s.idx + 1) % s.params.limit = 0 := by rw [hone, Nat.mod_one]
    exact ⟨hzero, hnxt⟩

end Sys2Proof.Machine
